-- ==== Sys2Proof/Word.lean ====
section
/-! DEFINITION. The words of the jase93 CORE block: the fixed widths of its ports, fields and registers
(spec 10_state.md R21 to R27, 30_encoding.md R70, R72, R78). -/

namespace Sys2Proof

/-- One byte: a command's DATA field, an input byte, a symbol (its ASCII code), an output lane (R57, R73). -/
abbrev Byte := BitVec 8

/-- The 16-bit command word on `cmd_word` (R72). -/
abbrev Cmd := BitVec 16

/-- The 21-bit response word on `rsp_word` (R78). -/
abbrev Rsp := BitVec 21

/-- A 21-bit bit accumulator, `ENC_ACC` or `DEC_ACC` (R21, R26). -/
abbrev Acc := BitVec 21

/-- A 5-bit pending-bit counter, `ENC_PEND` or `DEC_PEND` (R22, R27). -/
abbrev Pend := BitVec 5

/-- A 7-bit symbol value, the width of `DEC_PW` (R25) and of a VALUE entry of `DEC_LUT` (R50). -/
abbrev SymVal := BitVec 7

/-- A packed word: 13 or 14 payload bits (R121, R141). -/
abbrev PackedWord := BitVec 14

end Sys2Proof
end

