-- ==== Sys2Proof/Config.lean ====
section
/-! DEFINITION. What is fixed for the machine: the architectural constants of 00_scope.md R7, the OPEN
parameters of R9, and the free values (constants without a body, so that nothing can be proved of them). -/

namespace Sys2Proof.Config

/-- `BASE`: the alphabet size (R7). -/
abbrev base : Nat := 93

/-- `WORD_MAX = BASE*BASE - 1` (R7). -/
abbrev wordMax : Nat := 8648

/-- `WORD_BITS = floor(log2(WORD_MAX))` (R7). -/
abbrev wordBits : Nat := 13

/-- `WORD_MASK = (1 << WORD_BITS) - 1` (R7). -/
abbrev wordMask : Nat := 8191

/-- `WORD_FULL = WORD_MAX - WORD_MASK` (R7). -/
abbrev wordFull : Nat := 457

/-- The part of the OPEN parameter `CMD_LATENCY` above its least value 1 (R9, R71, U12; DEDUCED, unsafe: log entry 4). -/
opaque cmdLatencyAboveOne : Nat

/-- `CMD_LATENCY`: cycles from a command's acceptance to its response, at least 1 and otherwise OPEN
(R9, R71; DEDUCED, unsafe: log entry 4). -/
def cmdLatency : Nat := cmdLatencyAboveOne + 1

/-- FREE VALUE: which of the words a host presented is accepted when the host changed `cmd_word` before
acceptance (R212 (b), U5; DESIGN CHOICE, safe: log entry 6).  The argument is the machine's counter of such choices. -/
opaque freeWordChoice : Nat → Nat

/-- FREE VALUE: the contents of register number `n` at power-up, before the first reset (R202, U4;
DESIGN CHOICE, safe: log entry 7). -/
opaque powerUpValue : Nat → Nat

end Sys2Proof.Config
end

