-- ==== Sys2Proof/Machine/State.lean ====
section
/-! DEFINITION. The state of one CORE block as plain data (10_state.md R20), the reasons a step can stop, and
the state right after reset (10_state.md R38, 70_reset_and_hazards.md R200). -/

namespace Sys2Proof.Machine

/-- The status of a response (60_exceptions.md R170).  Its 3-bit code is `Status.code` in Machine/Ops.lean;
codes 5 to 7 have no constructor, since the block never produces them (U10). -/
inductive Status where
  | ok
  | invalidSymbol
  | decHalted
  | illegalCmd
  | lutRange
  deriving DecidableEq, Repr

/-- The handshake state (R20 (d), R71). -/
inductive Handshake where
  /-- No command in flight and no response waiting: `cmd_ready = 1` unless reset is applied. -/
  | ready
  /-- A command was accepted `cycles` rising edges ago and its response `rsp` has not been taken.  The
  response is waiting for the host (`rsp_valid = 1`) once `cycles` has reached `CMD_LATENCY`. -/
  | inFlight (cycles : Nat) (rsp : Rsp)
  deriving DecidableEq, Repr

/-- What the host drives on the block's input ports at one rising edge of `clk` (R70). -/
structure PinSample where
  rst : Bool := false
  cmdValid : Bool := false
  cmdWord : Cmd := 0#16
  rspReady : Bool := false
  deriving DecidableEq, Repr

/-- The state of one CORE block: its registers (R21 to R29), its handshake (R71), and, as the model's own
fields, what the host drives on the ports from now on and what the host has taken from them.
`ENC_LUT` and `DEC_LUT` are read-only and constant (R30): they are the constants of Machine/Operands.lean
(DESIGN CHOICE, safe: log entry 1). -/
structure State where
  /-- `ENC_ACC` (R21). -/
  encAcc : Acc
  /-- `ENC_PEND` (R22). -/
  encPend : Pend
  /-- `DEC_PWV` (R24). -/
  decPwv : Bool
  /-- `DEC_PW` (R25). -/
  decPw : SymVal
  /-- `DEC_ACC` (R26). -/
  decAcc : Acc
  /-- `DEC_PEND` (R27). -/
  decPend : Pend
  /-- `DEC_ERR` (R29). -/
  decErr : Bool
  /-- The handshake (R20 (d), R71). -/
  handshake : Handshake
  /-- Whether reset has been applied since power-up: the boot requirement of R204.  Model's own field
  (DESIGN CHOICE, safe: log entry 7). -/
  hadReset : Bool
  /-- What the host drives at the coming rising edges, the next one first; past its end the host drives
  nothing (every input 0).  Model's own field (DESIGN CHOICE, safe: log entry 3). -/
  pins : List PinSample
  /-- The words presented with `cmd_valid = 1` and not accepted, since the last acceptance or reset, oldest
  first (R212 (b)).  Model's own field (DESIGN CHOICE, safe: log entry 6). -/
  offered : List Cmd
  /-- How many free choices of a word have been made.  Model's own field (DESIGN CHOICE, safe: log entry 6). -/
  freeCount : Nat
  /-- The responses the host has taken, oldest first: the observation of a run (R215).  Model's own field
  (DESIGN CHOICE, safe: log entry 3). -/
  taken : List Rsp
  deriving DecidableEq, Repr

/-- Why a step faults.  -/
inductive Fault where
  /-- A read of an `ENC_LUT` index that holds no entry (R51).  Raised by ENC.FLUSH, in a state outside the
  encoder invariant R23 only, which no run from reset reaches (DEDUCED, safe: log entry 8). -/
  | encLutNoEntry
  deriving DecidableEq, Repr

/-- Why a step is refused. -/
inductive Refusal where
  /-- `exec` has no meaning for the instruction of that mnemonic.  Raised by no arm: every command of R74
  has its meaning.  Safe. -/
  | notModelled (mnemonic : String)
  /-- A command presented before the first reset: outside the spec (R202, R204, U4).  Raised when a command
  is accepted in a state after power-up to which no reset has been applied (DESIGN CHOICE, safe: log entry 7). -/
  | beforeFirstReset
  deriving DecidableEq, Repr

/-- The state right after reset (R38, R200): every register 0, no response waiting, ready for a command.
The host drives nothing yet; the model's own fields are empty or 0, and reset has been applied
(DESIGN CHOICE, safe: log entry 11). -/
def State.reset : State where
  encAcc := 0#21
  encPend := 0#5
  decPwv := false
  decPw := 0#7
  decAcc := 0#21
  decPend := 0#5
  decErr := false
  handshake := .ready
  hadReset := true
  pins := []
  offered := []
  freeCount := 0
  taken := []

end Sys2Proof.Machine
end

