-- ==== Sys2Proof/Machine/Flags.lean ====
section
/-! DEFINITION. The tests the packing rules make and the two stored flags.  The block has no arithmetic
condition codes: its only flags are `DEC_PWV` and `DEC_ERR` (10_state.md R33). -/

namespace Sys2Proof.Machine

/-- A word is short when its low 13 bits are below `WORD_FULL`; 457 itself is full (R123, R143, C4). -/
def isShort (w : PackedWord) : Bool := w.toNat % 8192 < Config.wordFull

/-- The payload width of a word: 14 bits when short, 13 otherwise (R123, R143). -/
def wordWidth (w : PackedWord) : Nat := if isShort w then 14 else 13

/-- The encoder packs a word when more than `WORD_BITS` bits are pending, 13 not being enough (R121). -/
def wordDue (p : Pend) : Bool := Config.wordBits < p.toNat

/-- The decoder releases a byte while at least 8 bits are pending (R141). -/
def byteDue (p : Pend) : Bool := 8 ≤ p.toNat

/-- `ENC.FLUSH` emits a high symbol when more than 8 bits are pending or the value is at least `BASE`
(R125). -/
def flushNeedsHigh (a : Acc) (p : Pend) : Bool := 8 < p.toNat || Config.base ≤ a.toNat

/-- Write `DEC_ERR`, the sticky error flag (R29). -/
def State.setDecErr (b : Bool) (s : State) : State := { s with decErr := b }

end Sys2Proof.Machine
end

