-- ==== Sys2Proof/Syntax.lean ====
section
/-! DEFINITION. The command set: one constructor per row of spec/opcode_table.json (30_encoding.md R74).
The operand of a WRITE or LUT command is the 8-bit DATA field, used unsigned (R73). -/

namespace Sys2Proof

/-- The eight commands of the opcode map (R74). -/
inductive Instr where
  /-- `ENC.WRITE b`, OPC 0x01 (R121). -/
  | encWrite (b : Byte)
  /-- `ENC.FLUSH`, OPC 0x02, DATA 0x00 (R125). -/
  | encFlush
  /-- `ENC.CLEAR`, OPC 0x03, DATA 0x00 (R127). -/
  | encClear
  /-- `DEC.WRITE c`, OPC 0x11 (R141). -/
  | decWrite (c : Byte)
  /-- `DEC.FLUSH`, OPC 0x12, DATA 0x00 (R145). -/
  | decFlush
  /-- `DEC.CLEAR`, OPC 0x13, DATA 0x00 (R147). -/
  | decClear
  /-- `LUT.ENC i`, OPC 0x21 (R104). -/
  | lutEnc (i : Byte)
  /-- `LUT.DEC c`, OPC 0x22 (R105). -/
  | lutDec (c : Byte)
  deriving DecidableEq, Repr

end Sys2Proof
end

