-- ==== Sys2Proof/WellFormed.lean ====
section
/-! DEFINITION. Which command words are legal, and why a word is not (30_encoding.md R75, R76).
Every term of `Instr` is well formed: an operand is exactly the 8-bit DATA field, every value of which the
spec makes a legal command (R73, R121, R141, R104, R105).  What can be ill formed is a command WORD, and
`wordLegal` checks it: the opcode is one of the eight of R74 (`opcodeKnown`), and a command without operand
has DATA 0x00 (`dataZeroIfUnused`). -/

namespace Sys2Proof

/-- Why a command word is reserved: the two grounds of R76. -/
inductive Illegal where
  /-- R76 (a): the opcode is none of the eight of R74. -/
  | reservedOpcode (opc : Byte)
  /-- R76 (b): a FLUSH or CLEAR opcode with DATA other than 0x00. -/
  | nonzeroData (opc data : Byte)
  deriving DecidableEq, Repr

/-- The opcodes whose DATA field is an operand (R73, R74). -/
def operandOpcodes : List Byte := [0x01#8, 0x11#8, 0x21#8, 0x22#8]

/-- The opcodes that take no operand, FLUSH and CLEAR (R73, R74). -/
def bareOpcodes : List Byte := [0x02#8, 0x03#8, 0x12#8, 0x13#8]

/-- The check of R76 (a): the opcode stands in the opcode map. -/
def opcodeKnown (opc : Byte) : Bool := operandOpcodes.contains opc || bareOpcodes.contains opc

/-- The check of R76 (b): DATA is 0x00 where the command takes none. -/
def dataZeroIfUnused (opc data : Byte) : Bool := !bareOpcodes.contains opc || data == 0#8

/-- A legal command word: both checks of R76 pass. -/
def wordLegal (w : Cmd) : Bool :=
  opcodeKnown (w.extractLsb' 8 8) && dataZeroIfUnused (w.extractLsb' 8 8) (w.extractLsb' 0 8)

/-- Well-formedness of a command as syntax: no constructor leaves anything to check, since an operand is
exactly the 8-bit DATA field (R73). -/
def Instr.wellFormed : Instr → Bool
  | .encWrite _ => true
  | .encFlush => true
  | .encClear => true
  | .decWrite _ => true
  | .decFlush => true
  | .decClear => true
  | .lutEnc _ => true
  | .lutDec _ => true

end Sys2Proof
end

