-- ==== Sys2Proof/Decode.lean ====
section
/-! DEFINITION. Command decoding, total on all 65536 words and rejecting by name (30_encoding.md R75, R76),
and after it the encoder of a command (R72, R74). -/

namespace Sys2Proof

/-- The field `OPC`, bits 15:8 of a command word (R72). -/
def opcOf (w : Cmd) : Byte := w.extractLsb' 8 8

/-- The field `DATA`, bits 7:0 of a command word (R72). -/
def dataOf (w : Cmd) : Byte := w.extractLsb' 0 8

/-- A command without operand: it is `i` when DATA is 0x00 and reserved otherwise (R75, R76 (b)). -/
def decodeBare (opc data : Byte) (i : Instr) : Except Illegal Instr :=
  if data = 0#8 then .ok i else .error (.nonzeroData opc data)

/-- Command decoding from the two fields, opcode by opcode as R75 lists them. -/
def decodeFields (opc data : Byte) : Except Illegal Instr :=
  match opc.toNat with
  | 0x01 => .ok (.encWrite data)
  | 0x02 => decodeBare opc data .encFlush
  | 0x03 => decodeBare opc data .encClear
  | 0x11 => .ok (.decWrite data)
  | 0x12 => decodeBare opc data .decFlush
  | 0x13 => decodeBare opc data .decClear
  | 0x21 => .ok (.lutEnc data)
  | 0x22 => .ok (.lutDec data)
  | _ => .error (.reservedOpcode opc)

/-- Command decoding (R75): the command a word stands for, or the ground of R76 on which it is reserved. -/
def decode (w : Cmd) : Except Illegal Instr := decodeFields (opcOf w) (dataOf w)

/-- The opcode of a command (R74). -/
def opcodeOf : Instr → Byte
  | .encWrite _ => 0x01#8
  | .encFlush => 0x02#8
  | .encClear => 0x03#8
  | .decWrite _ => 0x11#8
  | .decFlush => 0x12#8
  | .decClear => 0x13#8
  | .lutEnc _ => 0x21#8
  | .lutDec _ => 0x22#8

/-- The DATA field of a command: its operand, or 0x00 for a FLUSH or CLEAR (R73, R74). -/
def operandOf : Instr → Byte
  | .encWrite b => b
  | .encFlush => 0x00#8
  | .encClear => 0x00#8
  | .decWrite c => c
  | .decFlush => 0x00#8
  | .decClear => 0x00#8
  | .lutEnc i => i
  | .lutDec c => c

/-- The command word of a command: OPC in bits 15:8, DATA in bits 7:0 (R72, R74). -/
def encode (i : Instr) : Cmd := opcodeOf i ++ operandOf i

/-- The command the decoder reads from a table row's bits: `w`'s low `nbits` bits, as one 16-bit command
word.  The port carries the word whole, so no byte order enters (R56, R72, R80). -/
def decodeTableWord (nbits w : Nat) : Option Instr :=
  match decode (BitVec.ofNat 16 (w % 2 ^ nbits)) with
  | .ok i => some i
  | .error _ => none

end Sys2Proof
end

