-- ==== Sys2Proof/Machine/Operands.lean ====
section
/-! DEFINITION. The operands a command reads: the two read-only tables `ENC_LUT` and `DEC_LUT`
(20_memory.md R50 to R52, 40_alphabet.md R100, R102) and the operand forms an assembly line writes
(30_encoding.md R82). -/

namespace Sys2Proof.Machine

/-! ## The tables -/

/-- `ENC_LUT` at indices 0..30 (R100). -/
def encRows0 : List Byte :=
  [0x20#8, 0x21#8, 0x23#8, 0x24#8, 0x25#8, 0x26#8, 0x27#8, 0x28#8, 0x29#8, 0x2A#8, 0x2B#8] ++
  [0x2C#8, 0x2D#8, 0x2E#8, 0x2F#8, 0x30#8, 0x31#8, 0x32#8, 0x33#8, 0x34#8, 0x35#8] ++
  [0x36#8, 0x37#8, 0x38#8, 0x39#8, 0x3A#8, 0x3B#8, 0x3C#8, 0x3D#8, 0x3E#8, 0x3F#8]

/-- `ENC_LUT` at indices 31..61 (R100). -/
def encRows1 : List Byte :=
  [0x40#8, 0x41#8, 0x42#8, 0x43#8, 0x44#8, 0x45#8, 0x46#8, 0x47#8, 0x48#8, 0x49#8, 0x4A#8] ++
  [0x4B#8, 0x4C#8, 0x4D#8, 0x4E#8, 0x4F#8, 0x50#8, 0x51#8, 0x52#8, 0x53#8, 0x54#8] ++
  [0x55#8, 0x56#8, 0x57#8, 0x58#8, 0x59#8, 0x5A#8, 0x5B#8, 0x5D#8, 0x5E#8, 0x5F#8]

/-- `ENC_LUT` at indices 62..92 (R100). -/
def encRows2 : List Byte :=
  [0x60#8, 0x61#8, 0x62#8, 0x63#8, 0x64#8, 0x65#8, 0x66#8, 0x67#8, 0x68#8, 0x69#8, 0x6A#8] ++
  [0x6B#8, 0x6C#8, 0x6D#8, 0x6E#8, 0x6F#8, 0x70#8, 0x71#8, 0x72#8, 0x73#8, 0x74#8] ++
  [0x75#8, 0x76#8, 0x77#8, 0x78#8, 0x79#8, 0x7A#8, 0x7B#8, 0x7C#8, 0x7D#8, 0x7E#8]

/-- The forward table, entry 0 first (R100): the alphabet. -/
def alphabet : List Byte := encRows0 ++ encRows1 ++ encRows2

/-- A read of `ENC_LUT` at an index; indices 93 and above hold no entry (R50, R51). -/
def encLut (i : Nat) : Option Byte := alphabet[i]?

/-- A read of `DEC_LUT`: `some v` is the entry VALUE(v), `none` is INVALID, range by range as R102 lists
them.  Total on all 256 codes (R52); the bit pattern of INVALID is not observable (D19, U7; DESIGN CHOICE, safe: log entry 13). -/
def decLut (c : Byte) : Option SymVal :=
  if c.toNat < 0x20 then none
  else if c.toNat ≤ 0x21 then some (BitVec.ofNat 7 (c.toNat - 0x20))
  else if c.toNat = 0x22 then none
  else if c.toNat ≤ 0x5B then some (BitVec.ofNat 7 (c.toNat - 0x21))
  else if c.toNat = 0x5C then none
  else if c.toNat ≤ 0x7E then some (BitVec.ofNat 7 (c.toNat - 0x22))
  else none

/-- The two symbols of the value `n`: `ENC_LUT[n mod 93]`, then `ENC_LUT[n div 93]`, the low symbol first
(R54).  `none` where an index holds no entry (R51). -/
def symbolPair (n : Nat) : Option (List Byte) :=
  match encLut (n % Config.base), encLut (n / Config.base) with
  | some lo, some hi => some [lo, hi]
  | _, _ => none

/-- The low symbol of the value `n` alone. -/
def loneSymbol (n : Nat) : Option (List Byte) :=
  match encLut (n % Config.base) with
  | some lo => some [lo]
  | none => none

/-! ## The operand forms of an assembly line -/

/-- The three forms in which a line writes a DATA operand (R82). -/
inductive Operand where
  /-- `0xNN`. -/
  | hex (n : Nat)
  /-- Decimal `0`..`255`. -/
  | dec (n : Nat)
  /-- The character literal `'c'`. -/
  | chr (c : Char)
  deriving DecidableEq, Repr

/-- A printable ASCII character, 0x20..0x7E (R100, G1). -/
def isPrintable (c : Char) : Bool := 0x20 ≤ c.toNat && c.toNat ≤ 0x7E

/-- The check of an operand: it fits DATA; a character literal is printable and neither `'` (0x27) nor `\`
(0x5C), which are written in hex (R82). -/
def Operand.wellFormed : Operand → Bool
  | .hex n => n < 256
  | .dec n => n < 256
  | .chr c => isPrintable c && c.toNat != 0x27 && c.toNat != 0x5C

/-- The DATA byte an operand stands for; none where it is ill formed (R82). -/
def Operand.value (o : Operand) : Option Byte :=
  if o.wellFormed then
    match o with
    | .hex n => some (BitVec.ofNat 8 n)
    | .dec n => some (BitVec.ofNat 8 n)
    | .chr c => some (BitVec.ofNat 8 c.toNat)
  else none

end Sys2Proof.Machine
end

