-- ==== Sys2Proof/Machine/Ops.lean ====
section
/-! DEFINITION. The operations the commands share: writing the registers, composing a response, reporting
an error, packing and releasing bits, and the handshake's own updates (30_encoding.md R71, R78, R79;
60_exceptions.md R170 to R177; 70_reset_and_hazards.md R200). -/

namespace Sys2Proof.Machine

/-- What `exec` and `step` answer. -/
abbrev Answer := Host.Outcome State Fault Refusal

/-! ## Responses -/

/-- The 3-bit code of a status (R170). -/
def Status.code : Status → BitVec 3
  | .ok => 0#3
  | .invalidSymbol => 1#3
  | .decHalted => 2#3
  | .illegalCmd => 3#3
  | .lutRange => 4#3

/-- The response word of a status and an output list: STATUS[20:18], COUNT[17:16], B1[15:8], B0[7:0], an
unused lane 0x00 (R78, R79).  No command emits a third byte (R78); a third would not be carried. -/
def packRsp (st : Status) : List Byte → Rsp
  | [] => st.code ++ 0#2 ++ 0#8 ++ 0#8
  | [b0] => st.code ++ 1#2 ++ 0#8 ++ b0
  | b0 :: b1 :: _ => st.code ++ 2#2 ++ b1 ++ b0

/-- The field STATUS of a response (R78). -/
def rspStatus (r : Rsp) : BitVec 3 := r.extractLsb' 18 3

/-- The field COUNT of a response (R78). -/
def rspCount (r : Rsp) : BitVec 2 := r.extractLsb' 16 2

/-- The lane B1 of a response (R78). -/
def rspB1 (r : Rsp) : Byte := r.extractLsb' 8 8

/-- The lane B0 of a response (R78). -/
def rspB0 (r : Rsp) : Byte := r.extractLsb' 0 8

/-- The output list a response carries (R78). -/
def rspOutput (r : Rsp) : List Byte :=
  match (rspCount r).toNat with
  | 0 => []
  | 1 => [rspB0 r]
  | _ => [rspB0 r, rspB1 r]

/-- `respond(status)` with the emitted bytes (R11): the response enters the handshake at the edge that
accepts the command, together with the command's whole effect (R71 point 6; DEDUCED, safe: log entry 2), one cycle before
the earliest edge at which it can be taken (R71 point 3; DEDUCED, unsafe: log entry 4). -/
def State.respond (st : Status) (out : List Byte) (s : State) : State :=
  { s with handshake := .inFlight 1 (packRsp st out) }

/-- `raise <Status>` (R11): the response carries the status and no output, and nothing else changes.  This
is the whole of taking an error: the block has no trap, saves nothing and enters no handler (R176). -/
def raise (st : Status) (s : State) : Answer := .next (s.respond st [])

/-- `respond(OK)` with output read from `ENC_LUT`; a read of an index without an entry faults (R51). -/
def respondSymbols (out : Option (List Byte)) (s : State) : Answer :=
  match out with
  | some bytes => .next (s.respond .ok bytes)
  | none => .fault .encLutNoEntry

/-! ## Registers -/

/-- Write `ENC_ACC` and `ENC_PEND` (R21, R22). -/
def State.setEncoder (a : Acc) (p : Pend) (s : State) : State := { s with encAcc := a, encPend := p }

/-- Write `DEC_ACC` and `DEC_PEND` (R26, R27). -/
def State.setDecoder (a : Acc) (p : Pend) (s : State) : State := { s with decAcc := a, decPend := p }

/-- Hold a low symbol's value: `DEC_PW <- v`, `DEC_PWV <- 1` (R24, R25). -/
def State.holdLow (v : SymVal) (s : State) : State := { s with decPwv := true, decPw := v }

/-- Clear the pending-word slot: `DEC_PWV <- 0`, `DEC_PW <- 0` (R141, C8). -/
def State.dropLow (s : State) : State := { s with decPwv := false, decPw := 0#7 }

/-- Every register at its reset value, ready for a command (R38, R200).  A command in flight is abandoned
and its response is never presented (R201).  The responses already taken and what the host goes on to
drive are not the block's. -/
def State.applyReset (s : State) : State :=
  { s with
    encAcc := 0#21, encPend := 0#5, decPwv := false, decPw := 0#7, decAcc := 0#21, decPend := 0#5,
    decErr := false, handshake := .ready, hadReset := true, offered := [] }

/-! ## Bits -/

/-- Append a value to an accumulator above its pending bits: `acc | (zext_21(v) << pend)` (R53, R55). -/
def appendBits {n : Nat} (a : Acc) (p : Pend) (v : BitVec n) : Acc := a ||| (v.setWidth 21 <<< p.toNat)

/-- What packing one word leaves: the word, and the accumulator and counter after it. -/
structure Packed where
  word : PackedWord
  acc : Acc
  pend : Pend
  deriving DecidableEq, Repr

/-- Take one word from the low end of the encoder accumulator: 13 bits, and the next pending bit as bit 13
when those 13 bits are short (R121, R123). -/
def packWord (a : Acc) (p : Pend) : Packed :=
  let cand : PackedWord := (a.extractLsb' 0 13).setWidth 14
  let a1 := a >>> 13
  if isShort cand then
    { word := cand ||| ((a1.extractLsb' 0 1).setWidth 14 <<< 13), acc := a1 >>> 1, pend := p - 13#5 - 1#5 }
  else
    { word := cand, acc := a1, pend := p - 13#5 }

/-- What releasing bytes leaves: the bytes, earliest first, and the accumulator and counter after them. -/
structure Released where
  bytes : List Byte
  acc : Acc
  pend : Pend
  deriving DecidableEq, Repr

/-- Release bytes from the low end while at least 8 bits are pending, at most `fuel` of them (R55, R141;
DEDUCED, safe: log entry 5). -/
def releaseBytes : Nat → Acc → Pend → Released
  | 0, a, p => { bytes := [], acc := a, pend := p }
  | fuel + 1, a, p =>
    if byteDue p then
      let r := releaseBytes fuel (a >>> 8) (p - 8#5)
      { r with bytes := a.extractLsb' 0 8 :: r.bytes }
    else { bytes := [], acc := a, pend := p }

/-- The word of a symbol pair, `lowValue + highValue * BASE` (R81, R141). -/
def pairWord (lo hi : SymVal) : PackedWord := lo.setWidth 14 + hi.setWidth 14 * 93#14

/-! ## Handshake -/

/-- The response the host takes at this edge leaves the block: ready for a command again (R71 point 4). -/
def State.takeRsp (s : State) : State :=
  match s.handshake with
  | .ready => s
  | .inFlight _ r => { s with handshake := .ready, taken := s.taken ++ [r] }

/-- One more cycle passes before the response is presented (R71 point 3). -/
def State.countCycle (s : State) : State :=
  match s.handshake with
  | .ready => s
  | .inFlight n r => { s with handshake := .inFlight (n + 1) r }

/-- The host's inputs at this edge have been sampled. -/
def State.dropPins (s : State) : State := { s with pins := s.pins.tail }

/-- A word was presented and not accepted at this edge (R212 (a)). -/
def State.noteOffer (p : PinSample) (s : State) : State :=
  if p.cmdValid then { s with offered := s.offered ++ [p.cmdWord] } else s

/-- A command has been accepted: no word is waiting for acceptance. -/
def State.clearOffers (s : State) : State := { s with offered := [] }

/-- One more free choice has been made, so that the next one is fresh (DESIGN CHOICE, safe: log entry 6). -/
def State.countChoice (s : State) : State := { s with freeCount := s.freeCount + 1 }

/-- Whether the host held `cmd_word` stable up to this edge (R212 (b)). -/
def State.heldStable (w : Cmd) (s : State) : Bool := s.offered.all (· == w)

/-- One of the words presented, by a free choice: which one is unspecified (R212 (b), U5; DESIGN CHOICE, safe: log entry 6). -/
def State.freeWord (w : Cmd) (s : State) : Cmd :=
  ((s.offered ++ [w])[Config.freeWordChoice s.freeCount % (s.offered.length + 1)]?).getD w

end Sys2Proof.Machine
end

