-- ==== Sys2Proof/Machine/Decoder.lean ====
section
/-! DEFINITION. The decoder commands: 42_decoder.md R141, R142, R145, R147, R149. -/

namespace Sys2Proof.Machine

/-- DEC.WRITE of a high symbol with value `v`: rebuild the word, append its 13 or 14 bits, release one or
two bytes, clear the pending-word slot (R141, R143, R144). -/
def decHigh (v : SymVal) (s : State) : Answer :=
  let w := pairWord s.decPw v
  let r := releaseBytes 2 (appendBits s.decAcc s.decPend w) (s.decPend + BitVec.ofNat 5 (wordWidth w))
  .next (((s.setDecoder r.acc r.pend).dropLow).respond .ok r.bytes)

/-- DEC.WRITE of an alphabet member with value `v`: hold it as a low symbol, or complete the pair (R141). -/
def decMember (v : SymVal) (s : State) : Answer :=
  if s.decPwv then decHigh v s else .next ((s.holdLow v).respond .ok [])

/-- `DEC.WRITE c` (R141): halted first, then the membership test, then the pending word (R175). -/
def execDecWrite (c : Byte) (s : State) : Answer :=
  if s.decErr then raise .decHalted s
  else
    match decLut c with
    | none => raise .invalidSymbol (s.setDecErr true)
    | some v => decMember v s

/-- The byte of DEC.FLUSH: the low 8 bits of the pending bits with the lone value above them, when a low
symbol is pending; none otherwise (R145, R146, D11). -/
def flushBytes (s : State) : List Byte :=
  if s.decPwv then [(appendBits s.decAcc s.decPend s.decPw).extractLsb' 0 8] else []

/-- `DEC.FLUSH` (R145, R149). -/
def execDecFlush (s : State) : Answer :=
  if s.decErr then raise .decHalted s
  else .next (((s.setDecoder 0#21 0#5).dropLow).respond .ok (flushBytes s))

/-- `DEC.CLEAR` (R147). -/
def execDecClear (s : State) : Answer :=
  .next ((((s.setDecoder 0#21 0#5).dropLow).setDecErr false).respond .ok [])

end Sys2Proof.Machine
end

