-- ==== Sys2Proof/Machine/Encoder.lean ====
section
/-! DEFINITION. The encoder commands: 41_encoder.md R121, R125, R127.  Each meaning is the effect of an
ACCEPTED command; its response enters the handshake through `State.respond` or `respondSymbols`. -/

namespace Sys2Proof.Machine

/-- ENC.WRITE once the byte is ORed in: pack one word when more than 13 bits are pending (R121; one `if`
for the loop, R122; DEDUCED, safe: log entry 5). -/
def packIfDue (a : Acc) (p : Pend) (s : State) : Answer :=
  if wordDue p then
    respondSymbols (symbolPair (packWord a p).word.toNat)
      (s.setEncoder (packWord a p).acc (packWord a p).pend)
  else .next ((s.setEncoder a p).respond .ok [])

/-- `ENC.WRITE b` (R121). -/
def execEncWrite (b : Byte) (s : State) : Answer :=
  packIfDue (appendBits s.encAcc s.encPend b) (s.encPend + 8#5) s

/-- The symbols of ENC.FLUSH: none, the lone low symbol, or both (R125, R126). -/
def flushSymbols (a : Acc) (p : Pend) : Option (List Byte) :=
  if p = 0#5 then some []
  else if flushNeedsHigh a p then symbolPair a.toNat
  else loneSymbol a.toNat

/-- `ENC.FLUSH` (R125): emit what is pending, then clear the encoder (D9). -/
def execEncFlush (s : State) : Answer :=
  respondSymbols (flushSymbols s.encAcc s.encPend) (s.setEncoder 0#21 0#5)

/-- `ENC.CLEAR` (R127). -/
def execEncClear (s : State) : Answer := .next ((s.setEncoder 0#21 0#5).respond .ok [])

end Sys2Proof.Machine
end

