-- ==== Sys2Proof/Machine/Lookup.lean ====
section
/-! DEFINITION. The lookup commands: 40_alphabet.md R104, R105.  They write no register, and read none. -/

namespace Sys2Proof.Machine

/-- `LUT.ENC i` (R104): LUT_RANGE where the index is 93 or above, which holds no entry (R174). -/
def execLutEnc (i : Byte) (s : State) : Answer :=
  match encLut i.toNat with
  | some b => .next (s.respond .ok [b])
  | none => raise .lutRange s

/-- `LUT.DEC c` (R105): INVALID_SYMBOL for a non-member, without touching `DEC_ERR`. -/
def execLutDec (c : Byte) (s : State) : Answer :=
  match decLut c with
  | some v => .next (s.respond .ok [v.setWidth 8])
  | none => raise .invalidSymbol s

end Sys2Proof.Machine
end

