-- ==== Sys2Proof/Machine/Dispatch.lean ====
section
/-! DEFINITION. The effect of an accepted command, one arm per command of 30_encoding.md R74. -/

namespace Sys2Proof.Machine

def exec (i : Instr) (s : State) : Host.Outcome State Fault Refusal :=
  match i with
  | .encWrite b => Sys2Proof.Machine.execEncWrite b s
  | .encFlush => Sys2Proof.Machine.execEncFlush s
  | .encClear => Sys2Proof.Machine.execEncClear s
  | .decWrite c => Sys2Proof.Machine.execDecWrite c s
  | .decFlush => Sys2Proof.Machine.execDecFlush s
  | .decClear => Sys2Proof.Machine.execDecClear s
  | .lutEnc k => Sys2Proof.Machine.execLutEnc k s
  | .lutDec c => Sys2Proof.Machine.execLutDec c s

end Sys2Proof.Machine
end

