-- ==== Sys2Proof/Machine/Port.lean ====
section
/-! DEFINITION. The ports and the handshake at one rising edge of `clk` (30_encoding.md R70, R71;
70_reset_and_hazards.md R200 to R202, R212), and the transaction they amount to (R6, R71). -/

namespace Sys2Proof.Machine

/-! ## Running a command word -/

/-- The effect of an accepted command word: the command it decodes to, or ILLEGAL_CMD with no state change
(R75, R173). -/
def runWord (w : Cmd) (s : State) : Answer :=
  match decode w with
  | .ok i => exec i s
  | .error _ => raise .illegalCmd s

/-- `step(state, cmd_word) -> (state', rsp_word)` of R71: one whole transaction.  The command takes effect
and its response is taken; it is the last one in `taken`. -/
def transact (w : Cmd) (s : State) : Answer :=
  match runWord w s with
  | .next t => .next t.takeRsp
  | .fault f => .fault f
  | .refused r => .refused r

/-! ## What the block drives -/

/-- `cmd_ready` (R71 point 2; 0 while `rst = 1`, R200; DEDUCED, unsafe: log entry 14). -/
def State.cmdReady (rst : Bool) (s : State) : Bool := !rst && s.handshake == .ready

/-- The response on `rsp_word`, where one is presented: `CMD_LATENCY` cycles after acceptance and until it
is taken (R71 point 3).  The spec gives `rsp_word` no value while `rsp_valid = 0` (DEDUCED, safe: log entry 12). -/
def State.rspPresented (rst : Bool) (s : State) : Option Rsp :=
  match s.handshake with
  | .ready => none
  | .inFlight n r => if !rst && Config.cmdLatency ≤ n then some r else none

/-- `rsp_valid` (R71 point 3; 0 while `rst = 1`, R200). -/
def State.rspValid (rst : Bool) (s : State) : Bool := (s.rspPresented rst).isSome

/-! ## One rising edge -/

/-- The host's inputs at the next rising edge: the next sample, or nothing driven. -/
def State.sample (s : State) : PinSample := s.pins.headD { }

/-- A command is accepted with the word the host holds, or, where the host changed it before acceptance,
with one of the words presented (R71 point 1, R212 (b)).  Before the first reset it is outside the spec
(R202, U4). -/
def acceptWord (w : Cmd) (s : State) : Answer :=
  if s.hadReset then
    if s.heldStable w then runWord w s.clearOffers
    else runWord (s.freeWord w) s.clearOffers.countChoice
  else .refused .beforeFirstReset

/-- The edge while a command is in flight: the response presented is taken if the host is ready for it, and
held otherwise; before that one more cycle passes (R71 points 2 to 4). -/
def flightEdge (p : PinSample) (s : State) : State :=
  if s.rspValid false then
    if p.rspReady then (s.noteOffer p).takeRsp else s.noteOffer p
  else (s.noteOffer p).countCycle

/-- One rising edge of `clk` with the inputs `p`: reset first (R200, R201), then acceptance where the block
is ready (R71 point 1), then the command in flight.  An edge at which nothing is presented leaves the idle
block as it is (R185). -/
def clockEdge (p : PinSample) (s : State) : Answer :=
  if p.rst then .next s.applyReset
  else if s.cmdReady false then
    if p.cmdValid then acceptWord p.cmdWord s else .next s
  else .next (flightEdge p s)

/-- One edge with the inputs the host drives next. -/
def stepEdge (s : State) : Answer := clockEdge s.sample s.dropPins

/-- What sets up the ports so that the next edge accepts `w`: a response in flight has been taken, no other
word was presented before, reset has been applied, and `w` is presented at that edge (DESIGN CHOICE, safe: log entry 3). -/
def State.presenting (w : Cmd) (s : State) : State :=
  { s.takeRsp with
    hadReset := true, offered := [], pins := { cmdValid := true, cmdWord := w } :: s.pins }

/-! ## Power-up -/

/-- The state at power-up, before the first reset: every register and the handshake hold a free value
(R202, U4; DESIGN CHOICE, safe: log entry 7). -/
def State.powerUp : State where
  encAcc := BitVec.ofNat 21 (Config.powerUpValue 0)
  encPend := BitVec.ofNat 5 (Config.powerUpValue 1)
  decPwv := Config.powerUpValue 2 % 2 == 1
  decPw := BitVec.ofNat 7 (Config.powerUpValue 3)
  decAcc := BitVec.ofNat 21 (Config.powerUpValue 4)
  decPend := BitVec.ofNat 5 (Config.powerUpValue 5)
  decErr := Config.powerUpValue 6 % 2 == 1
  handshake :=
    if Config.powerUpValue 7 % 2 = 0 then .ready
    else .inFlight (Config.powerUpValue 8) (BitVec.ofNat 21 (Config.powerUpValue 9))
  hadReset := false
  pins := []
  offered := []
  freeCount := 0
  taken := []

end Sys2Proof.Machine
end

