-- ==== Sys2Proof/Machine/Step.lean ====
section
/-! DEFINITION. The step of the machine: one rising edge of `clk` with the inputs the host drives next
(30_encoding.md R70, R71), and the state whose next step runs a given command word. -/

namespace Sys2Proof.Machine

/-- One step: one rising edge of `clk`. -/
def step (s : State) : Host.Outcome State Fault Refusal := stepEdge s

/-- `s` with the command whose bits are `w` presented at the next rising edge.  The block has no program
counter and fetches nothing (R34): the host presents each command at the port (DESIGN CHOICE, safe: log entry 3). -/
def State.withFetchWord (s : State) (nbits w : Nat) : State :=
  s.presenting (BitVec.ofNat 16 (w % 2 ^ nbits))

end Sys2Proof.Machine
end

