-- ==== Sys2Proof/Machine/Session.lean ====
section
/-! DEFINITION. Command sequences: a run of transactions (70_reset_and_hazards.md R215), encoder and decoder
sessions (R205, R206), what a host reads out of the responses (R208, R209, R211), and the inputs a host
drives to carry out a transaction at the ports (30_encoding.md R71). -/

namespace Sys2Proof.Machine

/-- A run of command words, one transaction after another (R215). -/
def runWords : List Cmd → State → Answer
  | [], s => .next s
  | w :: ws, s =>
    match transact w s with
    | .next t => runWords ws t
    | .fault f => .fault f
    | .refused r => .refused r

/-- The responses of a run from `s` to `t`: what was taken since `s`. -/
def newRsps (s t : State) : List Rsp := t.taken.drop s.taken.length

/-- The concatenated output lists of a list of responses, in order (R205, R206). -/
def outputs (rs : List Rsp) : List Byte := rs.flatMap rspOutput

/-- Every response reports OK (R206). -/
def allOk (rs : List Rsp) : Bool := rs.all fun r => rspStatus r == Status.ok.code

/-- `ENCODE b1, ..., bn`: a whole encoder session from any encoder state (R83, R205). -/
def encodeSession (bs : List Byte) : List Instr := .encClear :: (bs.map .encWrite ++ [.encFlush])

/-- `DECODE "s1...sn"`: a whole decoder session from any decoder state (R83, R206). -/
def decodeSession (cs : List Byte) : List Instr := .decClear :: (cs.map .decWrite ++ [.decFlush])

/-- The command words of a list of commands. -/
def wordsOf (is : List Instr) : List Cmd := is.map encode

/-- The source's one-shot encode (R208): the existing output, then the session's output.  Host software,
described as the block's user; `none` where the run stops. -/
def oneShotEncode (existing : List Byte) (bs : List Byte) (s : State) : Option (List Byte) :=
  match runWords (wordsOf (encodeSession bs)) s with
  | .next t => some (existing ++ outputs (newRsps s t))
  | .fault _ => none
  | .refused _ => none

/-- The source's one-shot decode (R209): the existing output, then the session's output, unless a response
reports an error (the error "invalid data", here `none`). -/
def oneShotDecode (existing : List Byte) (cs : List Byte) (s : State) : Option (List Byte) :=
  match runWords (wordsOf (decodeSession cs)) s with
  | .next t => if allOk (newRsps s t) then some (existing ++ outputs (newRsps s t)) else none
  | .fault _ => none
  | .refused _ => none

/-- `maxEncodedLen(n) = ceil(n * 16 / 13)` (R132, R211): a host function the block does not compute. -/
def maxEncodedLen (n : Nat) : Nat := (16 * n + 12) / 13

/-! ## A transaction at the ports -/

/-- `k` rising edges of `clk`, one step each. -/
def runEdges : Nat → State → Answer
  | 0, s => .next s
  | k + 1, s =>
    match step s with
    | .next t => runEdges k t
    | .fault f => .fault f
    | .refused r => .refused r

/-- The inputs of one transaction carried out as R71 and R212 ask: present the word at an edge at which the
block is ready, then be ready for the response until it is taken. -/
def transactionPins (w : Cmd) : List PinSample :=
  { cmdValid := true, cmdWord := w } :: List.replicate Config.cmdLatency { rspReady := true }

/-- The inputs of a run of transactions, each after the one before. -/
def runPins (ws : List Cmd) : List PinSample := ws.flatMap transactionPins

end Sys2Proof.Machine
end

