-- ==== Sys2Proof/Machine/Assembler.lean ====
section
/-! DEFINITION. The assembler of 30_encoding.md R82 and R83: a line of text, its abstract form, and the
commands it stands for; and the listing of a command.  A mnemonic or an operand the rules do not admit is
rejected.  What the rules leave open of the text (spacing, the case of a hex digit, leading zeros of a
decimal) the model fixes (DESIGN CHOICE, unsafe: log entry 10), and so the form of a listing's operand
(DESIGN CHOICE, unsafe: log entry 15). -/

namespace Sys2Proof.Machine

/-- One line in abstract form: nothing, a command of R74, or a pseudo-instruction of R83. -/
inductive AsmLine where
  | blank
  | encWrite (o : Operand)
  | encFlush
  | encClear
  | decWrite (o : Operand)
  | decFlush
  | decClear
  | lutEnc (o : Operand)
  | lutDec (o : Operand)
  | encBytes (os : List Operand)
  | decStr (cs : List Char)
  | encodeBytes (os : List Operand)
  | decodeStr (cs : List Char)
  deriving DecidableEq, Repr

/-- A character of a DEC.STR or DECODE string: printable and neither `"` (0x22) nor `\` (0x5C) (R83). -/
def strByte (c : Char) : Option Byte :=
  if isPrintable c && c.toNat != 0x22 && c.toNat != 0x5C then some (BitVec.ofNat 8 c.toNat) else none

/-- The commands a line stands for (R82, R83); none where an operand is ill formed. -/
def AsmLine.expand : AsmLine → Option (List Instr)
  | .blank => some []
  | .encWrite o => o.value.map fun b => [.encWrite b]
  | .encFlush => some [.encFlush]
  | .encClear => some [.encClear]
  | .decWrite o => o.value.map fun c => [.decWrite c]
  | .decFlush => some [.decFlush]
  | .decClear => some [.decClear]
  | .lutEnc o => o.value.map fun k => [.lutEnc k]
  | .lutDec o => o.value.map fun c => [.lutDec c]
  | .encBytes os => (os.mapM Operand.value).map fun bs => bs.map .encWrite
  | .decStr cs => (cs.mapM strByte).map fun ss => ss.map .decWrite
  | .encodeBytes os => (os.mapM Operand.value).map encodeSession
  | .decodeStr cs => (cs.mapM strByte).map decodeSession

/-! ## Reading a line of text -/

/-- The pieces of a line: a word, a character literal, a string, a comma. -/
inductive Token where
  | word (cs : List Char)
  | chr (c : Char)
  | str (cs : List Char)
  | comma
  deriving DecidableEq, Repr

/-- What the reader of a line is inside of. -/
inductive LexMode where
  | idle
  | word (rev : List Char)
  | str (rev : List Char)
  | quote
  | quoted (c : Char)
  | comment
  | bad
  deriving DecidableEq, Repr

/-- The reader of a line: the pieces so far, last first, and what it is inside of. -/
structure Lexer where
  rev : List Token
  mode : LexMode
  deriving DecidableEq, Repr

/-- A blank between the pieces of a line. -/
def isBlank (c : Char) : Bool := c.toNat == 0x20 || c.toNat == 0x09

/-- Outside every piece: what a character starts.  `;` starts a comment (R82). -/
def lexIdle (rev : List Token) (c : Char) : Lexer :=
  if isBlank c then ⟨rev, .idle⟩
  else if c.toNat = 0x2C then ⟨.comma :: rev, .idle⟩
  else if c.toNat = 0x3B then ⟨rev, .comment⟩
  else if c.toNat = 0x27 then ⟨rev, .quote⟩
  else if c.toNat = 0x22 then ⟨rev, .str []⟩
  else ⟨rev, .word [c]⟩

/-- One more character of the line. -/
def lexChar (l : Lexer) (c : Char) : Lexer :=
  match l.mode with
  | .idle => lexIdle l.rev c
  | .word w =>
    if isBlank c || c.toNat == 0x2C || c.toNat == 0x3B then lexIdle (.word w.reverse :: l.rev) c
    else if c.toNat == 0x27 || c.toNat == 0x22 then ⟨l.rev, .bad⟩
    else ⟨l.rev, .word (c :: w)⟩
  | .str w => if c.toNat = 0x22 then ⟨.str w.reverse :: l.rev, .idle⟩ else ⟨l.rev, .str (c :: w)⟩
  | .quote => ⟨l.rev, .quoted c⟩
  | .quoted q => if c.toNat = 0x27 then ⟨.chr q :: l.rev, .idle⟩ else ⟨l.rev, .bad⟩
  | .comment => l
  | .bad => l

/-- The pieces of a line; none where a literal or a string is left open. -/
def tokens (line : List Char) : Option (List Token) :=
  let l := line.foldl lexChar ⟨[], .idle⟩
  match l.mode with
  | .idle => some l.rev.reverse
  | .comment => some l.rev.reverse
  | .word w => some (.word w.reverse :: l.rev).reverse
  | .str _ => none
  | .quote => none
  | .quoted _ => none
  | .bad => none

/-- The value of a decimal digit. -/
def decDigit (c : Char) : Option Nat :=
  if 0x30 ≤ c.toNat && c.toNat ≤ 0x39 then some (c.toNat - 0x30) else none

/-- The value of a hex digit, in either case. -/
def hexDigit (c : Char) : Option Nat :=
  if 0x41 ≤ c.toNat && c.toNat ≤ 0x46 then some (c.toNat - 0x41 + 10)
  else if 0x61 ≤ c.toNat && c.toNat ≤ 0x66 then some (c.toNat - 0x61 + 10)
  else decDigit c

/-- A list of digits as a number, most significant first. -/
def digitsValue (radix : Nat) (ds : List Nat) : Nat := ds.foldl (fun n d => n * radix + d) 0

/-- An operand: `0xNN`, decimal, or a character literal (R82). -/
def readOperand : Token → Option Operand
  | .word ['0', 'x', h, l] => (([h, l]).mapM hexDigit).map fun ds => .hex (digitsValue 16 ds)
  | .word (c :: cs) => ((c :: cs).mapM decDigit).map fun ds => .dec (digitsValue 10 ds)
  | .word [] => none
  | .chr c => some (.chr c)
  | .str _ => none
  | .comma => none

/-- The rest of an operand list, a comma before each operand (R83). -/
def readMore : List Token → Option (List Operand)
  | [] => some []
  | .comma :: t :: ts => do
    let o ← readOperand t
    let os ← readMore ts
    return o :: os
  | _ => none

/-- An operand list `b1, ..., bn` with n >= 0 (R83). -/
def readOperands : List Token → Option (List Operand)
  | [] => some []
  | t :: ts => readMore (.comma :: t :: ts)

/-- The argument of a command with one operand. -/
def readOne (mk : Operand → AsmLine) : List Token → Option AsmLine
  | [t] => (readOperand t).map mk
  | _ => none

/-- The argument of a pseudo-instruction with a string. -/
def readStr (mk : List Char → AsmLine) : List Token → Option AsmLine
  | [.str cs] => some (mk cs)
  | _ => none

/-- A command without operand (R82). -/
def readBare (l : AsmLine) : List Token → Option AsmLine
  | [] => some l
  | _ :: _ => none

/-- The mnemonics of R74 and R83, upper case, each with what it reads. -/
def readArgs (m : String) (args : List Token) : Option AsmLine :=
  match m with
  | "ENC.WRITE" => readOne .encWrite args
  | "ENC.FLUSH" => readBare .encFlush args
  | "ENC.CLEAR" => readBare .encClear args
  | "DEC.WRITE" => readOne .decWrite args
  | "DEC.FLUSH" => readBare .decFlush args
  | "DEC.CLEAR" => readBare .decClear args
  | "LUT.ENC" => readOne .lutEnc args
  | "LUT.DEC" => readOne .lutDec args
  | "ENC.BYTES" => (readOperands args).map .encBytes
  | "DEC.STR" => readStr .decStr args
  | "ENCODE" => (readOperands args).map .encodeBytes
  | "DECODE" => readStr .decodeStr args
  | _ => none

/-- A line of text in abstract form (R82); none where the line is no assembly line. -/
def readLine (line : List Char) : Option AsmLine :=
  match tokens line with
  | none => none
  | some [] => some .blank
  | some (.word m :: args) => readArgs (String.ofList m) args
  | some _ => none

/-- The command words of a line of text (R82, R83). -/
def assemble (line : List Char) : Option (List Cmd) :=
  (readLine line).bind fun l => l.expand.map wordsOf

/-! ## Listing -/

/-- The mnemonic of a command (R74). -/
def mnemonicOf : Instr → String
  | .encWrite _ => "ENC.WRITE"
  | .encFlush => "ENC.FLUSH"
  | .encClear => "ENC.CLEAR"
  | .decWrite _ => "DEC.WRITE"
  | .decFlush => "DEC.FLUSH"
  | .decClear => "DEC.CLEAR"
  | .lutEnc _ => "LUT.ENC"
  | .lutDec _ => "LUT.DEC"

/-- A hex digit in upper case, of the low four bits. -/
def hexChar (n : Nat) : Char :=
  if n % 16 < 10 then Char.ofNat (0x30 + n % 16) else Char.ofNat (0x41 + n % 16 - 10)

/-- The operand as a listing writes it, after one space; nothing for a FLUSH or CLEAR, which take none (R82).
DESIGN CHOICE, unsafe (log entry 15): R82 leaves the form of the operand open, and the spec's own listings
write character literals and decimals too; the model always writes `0xNN`. -/
def listOperand (i : Instr) : String :=
  let hex (b : Byte) := " 0x" ++ String.ofList [hexChar (b.toNat / 16), hexChar b.toNat]
  match i with
  | .encWrite b => hex b
  | .encFlush => ""
  | .encClear => ""
  | .decWrite c => hex c
  | .decFlush => ""
  | .decClear => ""
  | .lutEnc k => hex k
  | .lutDec c => hex c

/-- A listing line: the 16-bit word in hex before the mnemonic (R82), its operand as `listOperand` chooses. -/
def listing (i : Instr) : String :=
  let w := (encode i).toNat
  "0x" ++ String.ofList [hexChar (w / 4096), hexChar (w / 256), hexChar (w / 16), hexChar w] ++ "  " ++
    mnemonicOf i ++ listOperand i

end Sys2Proof.Machine
end

