-- ==== Sys2Proof/Machine/Platform.lean ====
section
/-! DEFINITION. A platform of `n` CORE blocks, `n` the OPEN parameter `NUM_CORES`, at least 1 (00_scope.md R9,
60_exceptions.md R183, U13; DESIGN CHOICE, safe: log entry 9).  Each block has its own registers and its own
port; they share only the constant tables (R37, R67). -/

namespace Sys2Proof.Machine

/-- The blocks of a platform, each with a state of its own (R37, R183). -/
abbrev Platform (n : Nat) := Vector State n

/-- One rising edge at block `k`, the others left alone.  `none` where that block stops. -/
def Platform.stepAt {n : Nat} (p : Platform n) (k : Fin n) : Option (Platform n) :=
  match step p[k] with
  | .next t => some (p.set k t)
  | .fault _ => none
  | .refused _ => none

end Sys2Proof.Machine
end

