-- ==== Sys2Proof/Safety.lean ====
section
/-! DEFINITION. The invariants that hold between commands (10_state.md R23, R28; 30_encoding.md R79), and
what it means that two states agree on one unit of the block (10_state.md R35). -/

namespace Sys2Proof

open Sys2Proof.Machine

/-- The encoder invariant R23: at most 13 pending bits, nothing above them. -/
abbrev EncInv (s : State) : Prop := s.encPend.toNat ≤ 13 ∧ s.encAcc.toNat < 2 ^ s.encPend.toNat

/-- The decoder invariant R28: at most 7 pending bits, nothing above them, a symbol value at most 92. -/
abbrev DecInv (s : State) : Prop :=
  s.decPend.toNat ≤ 7 ∧ s.decAcc.toNat < 2 ^ s.decPend.toNat ∧ s.decPw.toNat ≤ 92

/-- `DEC_PW` is 0 while no low symbol is pending (R25, C8, U8). -/
abbrev PwClear (s : State) : Prop := s.decPwv = false → s.decPw = 0#7

/-- A response word as R79 and R170 allow it: a status code 0 to 4, COUNT at most 2, unused lanes 0x00, and
no output beside a status other than OK. -/
abbrev RspWellFormed (r : Rsp) : Prop :=
  (rspStatus r).toNat ≤ 4 ∧ (rspCount r).toNat ≤ 2 ∧
  ((rspCount r).toNat = 0 → rspB0 r = 0#8) ∧ ((rspCount r).toNat ≤ 1 → rspB1 r = 0#8) ∧
  (rspStatus r ≠ 0#3 → rspCount r = 0#2)

/-- The response in flight, if any, is well formed, and its command was accepted at least one cycle ago.  The
count of cycles stops at `CMD_LATENCY`, when the response is presented (R71 point 3). -/
def HandshakeInv (s : State) : Prop :=
  match s.handshake with
  | .ready => True
  | .inFlight n r => 1 ≤ n ∧ n ≤ Config.cmdLatency ∧ RspWellFormed r

/-- The invariant of the whole block between commands, once reset has been applied (R23, R28, R25, R79). -/
def Inv (s : State) : Prop :=
  s.hadReset = true → EncInv s ∧ DecInv s ∧ PwClear s ∧ HandshakeInv s

/-- The registers of the encoder agree (R20 (a)). -/
abbrev SameEnc (s t : State) : Prop := t.encAcc = s.encAcc ∧ t.encPend = s.encPend

/-- The registers of the decoder agree, `DEC_ERR` among them (R20 (b)). -/
abbrev SameDec (s t : State) : Prop :=
  t.decPwv = s.decPwv ∧ t.decPw = s.decPw ∧ t.decAcc = s.decAcc ∧ t.decPend = s.decPend ∧
  t.decErr = s.decErr

/-- The model's own fields agree: what the host drives, presented and has taken, and whether reset has
been applied. -/
abbrev SameHost (s t : State) : Prop :=
  t.hadReset = s.hadReset ∧ t.pins = s.pins ∧ t.offered = s.offered ∧ t.freeCount = s.freeCount ∧
  t.taken = s.taken

/-- The commands of the encoder (R35, R74). -/
def isEnc : Instr → Bool
  | .encWrite _ => true
  | .encFlush => true
  | .encClear => true
  | .decWrite _ => false
  | .decFlush => false
  | .decClear => false
  | .lutEnc _ => false
  | .lutDec _ => false

/-- The commands of the decoder (R35, R74). -/
def isDec : Instr → Bool
  | .encWrite _ => false
  | .encFlush => false
  | .encClear => false
  | .decWrite _ => true
  | .decFlush => true
  | .decClear => true
  | .lutEnc _ => false
  | .lutDec _ => false

/-- The response an answer carries: the one `exec` or `runWord` has just put in flight. -/
def responseOf (a : Answer) : Option Rsp :=
  match a with
  | .next t =>
    match t.handshake with
    | .ready => none
    | .inFlight _ r => some r
  | .fault _ => none
  | .refused _ => none

/-- The status R175 gives a command word in a state: an illegal word first, then a halted decoder, then an
invalid symbol or an index out of range, then OK. -/
def expectedStatus (w : Cmd) (s : State) : Status :=
  match decode w with
  | .error _ => .illegalCmd
  | .ok (.encWrite _) => .ok
  | .ok .encFlush => .ok
  | .ok .encClear => .ok
  | .ok (.decWrite c) => if s.decErr then .decHalted else if decLut c = none then .invalidSymbol else .ok
  | .ok .decFlush => if s.decErr then .decHalted else .ok
  | .ok .decClear => .ok
  | .ok (.lutEnc k) => if 93 ≤ k.toNat then .lutRange else .ok
  | .ok (.lutDec c) => if decLut c = none then .invalidSymbol else .ok

end Sys2Proof
end

