-- ==== Sys2Proof/Certificates/Slice0/Obligations.lean ====
section
/-! DEFINITION. The statements about the machine, rule by rule of the spec.  A statement that an instruction
answers `.next (… { s with … })` gives its whole next state: every field not written there is unchanged. -/

open Sys2Proof Sys2Proof.Machine

/-! ## Constants, tables, encodings -/

/-- R7: the constants are the ones derived from BASE. -/
def Obligations.ConstantsFollowFromBase : Prop :=
  Config.base = 93 ∧ Config.wordMax = Config.base * Config.base - 1 ∧
  Config.wordBits = Nat.log2 Config.wordMax ∧ Config.wordMask = 2 ^ Config.wordBits - 1 ∧
  Config.wordFull = Config.wordMax - Config.wordMask

/-- R100 and R51: the forward table in closed form, and no entry from index 93 on. -/
def Obligations.EncLutClosedForm : Prop :=
  (∀ i, i < 93 → encLut i = some (BitVec.ofNat 8
    (if i ≤ 1 then 0x20 + i else if i ≤ 58 then 0x21 + i else 0x22 + i))) ∧
  (∀ i, 93 ≤ i → encLut i = none)

/-- R103: the reverse table inverts the forward table, and is INVALID exactly off the alphabet. -/
def Obligations.TablesAreInverse : Prop :=
  (∀ i, i < 93 → ∃ b, encLut i = some b ∧ decLut b = some (BitVec.ofNat 7 i)) ∧
  (∀ c : Byte, (∀ i, encLut i ≠ some c) → decLut c = none)

/-- R84: the example words decode to the commands of the listing, and a reader of the assembly text gives
the same words. -/
def Obligations.ExampleWordsDecode : Prop :=
  (decode 0x0100#16 = .ok (.encWrite 0x00#8) ∧ decode 0x01FF#16 = .ok (.encWrite 0xFF#8) ∧
   decode 0x0200#16 = .ok .encFlush ∧ decode 0x0300#16 = .ok .encClear ∧
   decode 0x1120#16 = .ok (.decWrite 0x20#8) ∧ decode 0x1122#16 = .ok (.decWrite 0x22#8) ∧
   decode 0x1200#16 = .ok .decFlush ∧ decode 0x1300#16 = .ok .decClear ∧
   decode 0x2145#16 = .ok (.lutEnc 69#8) ∧ decode 0x2267#16 = .ok (.lutDec 0x67#8) ∧
   decode 0x0201#16 = .error (.nonzeroData 0x02#8 0x01#8) ∧
   decode 0x0000#16 = .error (.reservedOpcode 0x00#8)) ∧
  (assemble "ENC.WRITE 0x00".toList = some [0x0100#16] ∧ assemble "ENC.WRITE 0xFF".toList = some [0x01FF#16] ∧
   assemble "ENC.FLUSH".toList = some [0x0200#16] ∧ assemble "ENC.CLEAR".toList = some [0x0300#16] ∧
   assemble "DEC.WRITE ' '".toList = some [0x1120#16] ∧ assemble "DEC.WRITE 0x22".toList = some [0x1122#16] ∧
   assemble "DEC.FLUSH".toList = some [0x1200#16] ∧ assemble "DEC.CLEAR".toList = some [0x1300#16] ∧
   assemble "LUT.ENC 69".toList = some [0x2145#16] ∧ assemble "LUT.DEC 'g'".toList = some [0x2267#16]) ∧
  ∀ s : State, s.decErr = false →
    runWord 0x1122#16 s = .next (State.respond .invalidSymbol [] { s with decErr := true })

/-- R75: the decoder, opcode by opcode, on every word. -/
def Obligations.DecodeFollowsOpcodeMap : Prop :=
  (∀ d : Byte, decode (0x01#8 ++ d) = .ok (.encWrite d) ∧ decode (0x11#8 ++ d) = .ok (.decWrite d) ∧
    decode (0x21#8 ++ d) = .ok (.lutEnc d) ∧ decode (0x22#8 ++ d) = .ok (.lutDec d)) ∧
  (decode (0x02#8 ++ 0x00#8) = .ok .encFlush ∧ decode (0x03#8 ++ 0x00#8) = .ok .encClear ∧
    decode (0x12#8 ++ 0x00#8) = .ok .decFlush ∧ decode (0x13#8 ++ 0x00#8) = .ok .decClear) ∧
  (∀ o d : Byte, o ∈ bareOpcodes → d ≠ 0#8 → decode (o ++ d) = .error (.nonzeroData o d)) ∧
  (∀ o d : Byte, o ∉ bareOpcodes → o ∉ operandOpcodes → decode (o ++ d) = .error (.reservedOpcode o))

/-- R72, R74, R75: decoding an encoded command gives it back, and each legal word stands for one command. -/
def Obligations.DecodeInvertsEncode : Prop :=
  (∀ i, decode (encode i) = .ok i) ∧ (∀ w i, decode w = .ok i → encode i = w) ∧
  (∀ w, (∃ i, decode w = .ok i) ↔ wordLegal w = true)

/-- R82: the operand forms of an assembly line.  Hex and decimal stand for their value up to 255; a character
literal stands for the code of any printable ASCII character but `'` and `\`. -/
def Obligations.OperandFormsAssemble : Prop :=
  (∀ n : Nat, n < 256 → (Operand.hex n).value = some (BitVec.ofNat 8 n) ∧
    (Operand.dec n).value = some (BitVec.ofNat 8 n)) ∧
  (∀ n : Nat, 256 ≤ n → (Operand.hex n).value = none ∧ (Operand.dec n).value = none) ∧
  (∀ c : Char, 0x20 ≤ c.toNat → c.toNat ≤ 0x7E → c.toNat ≠ 0x27 → c.toNat ≠ 0x5C →
    (Operand.chr c).value = some (BitVec.ofNat 8 c.toNat)) ∧
  (∀ c : Char, (c.toNat < 0x20 ∨ 0x7E < c.toNat ∨ c.toNat = 0x27 ∨ c.toNat = 0x5C) →
    (Operand.chr c).value = none)

/-- R83: what the pseudo-instructions stand for, for every operand list and string they admit. -/
def Obligations.PseudoInstructionsExpand : Prop :=
  (∀ (os : List Operand) (bs : List Byte), os.map Operand.value = bs.map some →
    (AsmLine.encBytes os).expand = some (bs.map Instr.encWrite) ∧
    (AsmLine.encodeBytes os).expand = some ([.encClear] ++ bs.map Instr.encWrite ++ [.encFlush])) ∧
  (∀ cs : List Char, (∀ c ∈ cs, isPrintable c = true ∧ c.toNat ≠ 0x22 ∧ c.toNat ≠ 0x5C) →
    (AsmLine.decStr cs).expand = some (cs.map fun c => .decWrite (BitVec.ofNat 8 c.toNat)) ∧
    (AsmLine.decodeStr cs).expand =
      some ([.decClear] ++ cs.map (fun c => .decWrite (BitVec.ofNat 8 c.toNat)) ++ [.decFlush])) ∧
  (∀ cs : List Char, (∃ c ∈ cs, c.toNat = 0x22 ∨ c.toNat = 0x5C) →
    (AsmLine.decStr cs).expand = none ∧ (AsmLine.decodeStr cs).expand = none)

/-! ## Responses -/

/-- R78: the response word carries the status, the count and the bytes in their fields, and an unused
lane is 0x00. -/
def Obligations.ResponseWordLayout : Prop :=
  ∀ (st : Status) (out : List Byte), out.length ≤ 2 →
    rspStatus (packRsp st out) = st.code ∧ (rspCount (packRsp st out)).toNat = out.length ∧
    rspOutput (packRsp st out) = out ∧ rspB0 (packRsp st out) = out.getD 0 0#8 ∧
    rspB1 (packRsp st out) = out.getD 1 0#8 ∧
    packRsp st out = rspStatus (packRsp st out) ++ rspCount (packRsp st out) ++ rspB1 (packRsp st out) ++
      rspB0 (packRsp st out)

/-- R170: the status codes. -/
def Obligations.StatusCodes : Prop :=
  Status.ok.code = 0#3 ∧ Status.invalidSymbol.code = 1#3 ∧ Status.decHalted.code = 2#3 ∧
  Status.illegalCmd.code = 3#3 ∧ Status.lutRange.code = 4#3

/-- R79, R170: whatever word runs in whatever state, a next state has its response in flight,
with a status code 0 to 4, COUNT 0 to 2, unused lanes 0x00 and no output beside a status other than OK.
Derived: that it has been in flight one cycle is the model's count (log entry 4, DEDUCED). -/
def Obligations.EveryResponseIsWellFormed : Prop :=
  ∀ (w : Cmd) (s t : State), runWord w s = .next t →
    ∃ r, t.handshake = .inFlight 1 r ∧ RspWellFormed r

/-- R175: the status of every word in every state, in the order of priority. -/
def Obligations.StatusFollowsPriority : Prop :=
  ∀ (w : Cmd) (s t : State), runWord w s = .next t →
    ∃ r, responseOf (.next t) = some r ∧ rspStatus r = (expectedStatus w s).code

/-- R173, R76: a word that decodes to nothing reports ILLEGAL_CMD whatever the state, and changes none of
it. -/
def Obligations.IllegalWordChangesNothing : Prop :=
  ∀ (o d : Byte) (s : State),
    (o ∉ bareOpcodes ∧ o ∉ operandOpcodes) ∨ (o ∈ bareOpcodes ∧ d ≠ 0#8) →
      runWord (o ++ d) s = .next (s.respond .illegalCmd [])

/-- R35, R176: a command whose status is not OK writes no register, except that a DEC.WRITE reporting
INVALID_SYMBOL sets DEC_ERR. -/
def Obligations.NonOkWritesNothing : Prop :=
  ∀ (i : Instr) (s t : State) (r : Rsp), exec i s = .next t → responseOf (.next t) = some r →
    rspStatus r ≠ Status.ok.code →
      (t = { s with handshake := t.handshake } ∨
       ((∃ c, i = .decWrite c) ∧ rspStatus r = Status.invalidSymbol.code ∧
         t = { s with handshake := t.handshake, decErr := true }))

/-! ## Frames -/

/-- R35: what each unit's commands leave unchanged.  An encoder command writes ENC_ACC and ENC_PEND only, a
decoder command the decoder registers only (DEC.FLUSH not DEC_ERR), a lookup command none. -/
def Obligations.CommandsWriteOnlyTheirUnit : Prop :=
  ∀ (i : Instr) (s t : State), exec i s = .next t →
    SameHost s t ∧ (isEnc i = false → SameEnc s t) ∧ (isDec i = false → SameDec s t) ∧
    (i = .decFlush → t.decErr = s.decErr)

/-- R35, R36: what a command answers and leaves depends on its own unit only: in two states that agree on
that unit it gives the same response, and the states it leaves agree on that unit again. -/
def Obligations.CommandsReadOnlyTheirUnit : Prop :=
  ∀ (i : Instr) (s s' t t' : State), exec i s = .next t → exec i s' = .next t' →
    (isEnc i = true → SameEnc s s') → (isDec i = true → SameDec s s') →
    responseOf (.next t) = responseOf (.next t') ∧
    (isEnc i = true → SameEnc t t') ∧ (isDec i = true → SameDec t t')

/-! ## Encoder -/

/-- R121: ENC.WRITE, on numbers.  With `a` the pending bits and the new byte above them and `p` their
count: at most 13 stay pending; otherwise a full word of 13 or a short word of 14 bits leaves from the low
end, low symbol first. -/
def Obligations.EncWriteResult : Prop :=
  ∀ (s : State) (b : Byte), encode (.encWrite b) = 0x01#8 ++ b ∧ (EncInv s → ∀ a p : Nat,
    a = s.encAcc.toNat + b.toNat * 2 ^ s.encPend.toNat → p = s.encPend.toNat + 8 →
    (p ≤ 13 → exec (.encWrite b) s =
      .next (State.respond .ok [] { s with encAcc := BitVec.ofNat 21 a, encPend := BitVec.ofNat 5 p })) ∧
    (13 < p → 457 ≤ a % 8192 → ∃ lo hi, encLut (a % 8192 % 93) = some lo ∧ encLut (a % 8192 / 93) = some hi ∧
      exec (.encWrite b) s = .next (State.respond .ok [lo, hi]
        { s with encAcc := BitVec.ofNat 21 (a / 8192), encPend := BitVec.ofNat 5 (p - 13) })) ∧
    (13 < p → a % 8192 < 457 → ∃ lo hi, encLut (a % 16384 % 93) = some lo ∧ encLut (a % 16384 / 93) = some hi ∧
      exec (.encWrite b) s = .next (State.respond .ok [lo, hi]
        { s with encAcc := BitVec.ofNat 21 (a / 16384), encPend := BitVec.ofNat 5 (p - 14) })))

/-- R123, R124: the classes of a packed word, whatever the accumulator holds, and the range of its high
symbol. -/
def Obligations.PackedWordClasses : Prop :=
  ∀ (a : Acc) (p : Pend) (w cand bit : Nat),
    w = (packWord a p).word.toNat → cand = a.toNat % 8192 → bit = a.toNat / 8192 % 2 →
    w ≤ 8648 ∧ w % 93 ≤ 92 ∧ w / 93 ≤ 92 ∧
    (w % 8192 < 457 ↔ cand < 457) ∧
    (cand < 457 → w = cand + 8192 * bit ∧ (bit = 0 → w ≤ 456 ∧ w / 93 ≤ 4) ∧
      (bit = 1 → 8192 ≤ w ∧ 88 ≤ w / 93)) ∧
    (457 ≤ cand → w = cand ∧ w ≤ 8191 ∧ w / 93 ≤ 88)

/-- R125, R126: ENC.FLUSH, case by case; the encoder is left fresh. -/
def Obligations.EncFlushResult : Prop :=
  encode .encFlush = 0x0200#16 ∧ (∀ d : Byte, d ≠ 0#8 → decode (0x02#8 ++ d) = .error (.nonzeroData 0x02#8 d)) ∧
  ∀ (s : State), EncInv s → ∀ a p : Nat, a = s.encAcc.toNat → p = s.encPend.toNat →
    ∃ lo hi, encLut (a % 93) = some lo ∧ encLut (a / 93) = some hi ∧
    (p = 0 → exec .encFlush s = .next (State.respond .ok [] { s with encAcc := 0#21, encPend := 0#5 })) ∧
    (1 ≤ p → p ≤ 8 → a < 93 →
      encLut a = some lo ∧
      exec .encFlush s = .next (State.respond .ok [lo] { s with encAcc := 0#21, encPend := 0#5 })) ∧
    (p ≤ 8 → 93 ≤ a →
      exec .encFlush s = .next (State.respond .ok [lo, hi] { s with encAcc := 0#21, encPend := 0#5 })) ∧
    (9 ≤ p →
      exec .encFlush s = .next (State.respond .ok [lo, hi] { s with encAcc := 0#21, encPend := 0#5 }) ∧
      (a < 93 → hi = 0x20#8))

/-- R127: ENC.CLEAR, in every state. -/
def Obligations.EncClearResult : Prop :=
  encode .encClear = 0x0300#16 ∧ (∀ d : Byte, d ≠ 0#8 → decode (0x03#8 ++ d) = .error (.nonzeroData 0x03#8 d)) ∧
  ∀ s : State, exec .encClear s = .next (State.respond .ok [] { s with encAcc := 0#21, encPend := 0#5 })

/-- R128, R178: a legal encoder command always answers OK; a FLUSH or CLEAR word of the encoder with
nonzero DATA is ILLEGAL_CMD and leaves the state unchanged. -/
def Obligations.EncoderNeverFails : Prop :=
  (∀ (i : Instr) (s : State), isEnc i = true → EncInv s →
    ∃ t r, exec i s = .next t ∧ responseOf (.next t) = some r ∧ rspStatus r = Status.ok.code) ∧
  (∀ (d : Byte) (s : State), d ≠ 0#8 →
    runWord (0x02#8 ++ d) s = .next (s.respond .illegalCmd []) ∧
    runWord (0x03#8 ++ d) s = .next (s.respond .illegalCmd []))

/-- R130: how many symbols an encoder command emits. -/
def Obligations.EncoderOutputCounts : Prop :=
  ∀ s : State, EncInv s →
    (∀ b : Byte, ∃ r, responseOf (exec (.encWrite b) s) = some r ∧
      (rspOutput r).length = if 6 ≤ s.encPend.toNat then 2 else 0) ∧
    (∃ r, responseOf (exec .encFlush s) = some r ∧
      (rspOutput r).length = if s.encPend.toNat = 0 then 0
        else if 8 < s.encPend.toNat ∨ 93 ≤ s.encAcc.toNat then 2 else 1) ∧
    (∃ r, responseOf (exec .encClear s) = some r ∧ (rspOutput r).length = 0)

/-- R131: every byte an encoder command emits is a member of the alphabet. -/
def Obligations.EncoderOutputIsInAlphabet : Prop :=
  ∀ (i : Instr) (s : State) (r : Rsp), isEnc i = true → responseOf (exec i s) = some r →
    ∀ b ∈ rspOutput r, ∃ k, k < 93 ∧ encLut k = some b

/-- R23, R120: every encoder command keeps the encoder invariant, every other command leaves it, and inside
ENC.WRITE, after the OR, at most 21 bits are pending and nothing stands above them. -/
def Obligations.EncoderInvariantKept : Prop :=
  EncInv State.reset ∧
  ∀ s : State, EncInv s →
    (∀ (i : Instr) (t : State), exec i s = .next t → EncInv t) ∧
    (∀ b : Byte, (s.encPend + 8#5).toNat = s.encPend.toNat + 8 ∧ s.encPend.toNat + 8 ≤ 21 ∧
      (appendBits s.encAcc s.encPend b).toNat < 2 ^ (s.encPend.toNat + 8))

/-- R129: what the writes of a byte sequence and one flush emit depends on the bytes and on the encoder's
registers at the start, and on nothing else in the state. -/
def Obligations.EncodingDependsOnEncoderOnly : Prop :=
  ∀ (s s' : State) (bs : List Byte), EncInv s → SameEnc s s' →
    ∃ t t', runWords (wordsOf (bs.map Instr.encWrite ++ [.encFlush])) s = .next t ∧
      runWords (wordsOf (bs.map Instr.encWrite ++ [.encFlush])) s' = .next t' ∧
      newRsps s t = newRsps s' t'

/-- R132: an encoder session of n bytes, from any state, emits at most ceil(16 n / 13) symbols. -/
def Obligations.EncodeCapacityBound : Prop :=
  ∀ (s : State) (bs : List Byte), ∃ t, runWords (wordsOf (encodeSession bs)) s = .next t ∧
    (outputs (newRsps s t)).length ≤ maxEncodedLen bs.length

/-! ## Decoder -/

/-- R141, R142, R144: DEC.WRITE, case by case: while halted; on a code outside the alphabet, whether a low
symbol is pending or not; on a low symbol; and on a high symbol, on numbers.  There, with `w` the word of
the pair, `a` the pending bits and the word above them and `p` their count, one byte leaves when `p` is
below 16 and two otherwise, earliest first, and the pending-word slot is cleared. -/
def Obligations.DecWriteResult : Prop :=
  ∀ (s : State) (c : Byte), encode (.decWrite c) = 0x11#8 ++ c ∧
    (s.decErr = true → exec (.decWrite c) s = .next (s.respond .decHalted [])) ∧
    (s.decErr = false → decLut c = none →
      exec (.decWrite c) s = .next (State.respond .invalidSymbol [] { s with decErr := true })) ∧
    (s.decErr = false → s.decPwv = false → ∀ v, decLut c = some v →
      exec (.decWrite c) s = .next (State.respond .ok [] { s with decPwv := true, decPw := v })) ∧
    (s.decErr = false → s.decPwv = true → DecInv s → ∀ v, decLut c = some v → ∀ w a p : Nat,
      w = s.decPw.toNat + 93 * v.toNat → a = s.decAcc.toNat + w * 2 ^ s.decPend.toNat →
      p = s.decPend.toNat + (if w % 8192 < 457 then 14 else 13) →
      13 ≤ p ∧ p ≤ 21 ∧
      (p < 16 → exec (.decWrite c) s = .next (State.respond .ok [BitVec.ofNat 8 a]
        { s with decPwv := false, decPw := 0#7, decAcc := BitVec.ofNat 21 (a / 256),
                 decPend := BitVec.ofNat 5 (p - 8) })) ∧
      (16 ≤ p → exec (.decWrite c) s = .next (State.respond .ok [BitVec.ofNat 8 a, BitVec.ofNat 8 (a / 256)]
        { s with decPwv := false, decPw := 0#7, decAcc := BitVec.ofNat 21 (a / 65536),
                 decPend := BitVec.ofNat 5 (p - 16) })))

/-- R143: the decoder's width rule agrees with the encoder on every word: a pair of symbol values is a word
of 0..8648; each such word is one the encoder can emit, and the width the decoder gives it is the number
of bits the encoder took. -/
def Obligations.WidthRuleAgreesWithEncoder : Prop :=
  (∀ lo hi : SymVal, lo.toNat ≤ 92 → hi.toNat ≤ 92 →
    (pairWord lo hi).toNat = lo.toNat + 93 * hi.toNat ∧ (pairWord lo hi).toNat ≤ 8648) ∧
  (∀ w : PackedWord, wordWidth w = if w.toNat % 8192 < 457 then 14 else 13) ∧
  (∀ w : PackedWord, w.toNat ≤ 8648 → ∃ (a : Acc) (p : Pend), 13 < p.toNat ∧ p.toNat ≤ 21 ∧
    a.toNat < 2 ^ p.toNat ∧ (packWord a p).word = w) ∧
  (∀ (a : Acc) (p : Pend), 13 < p.toNat → p.toNat ≤ 21 → a.toNat < 2 ^ p.toNat →
    (packWord a p).pend.toNat + wordWidth (packWord a p).word = p.toNat ∧
    a.toNat = (packWord a p).word.toNat + (packWord a p).acc.toNat * 2 ^ wordWidth (packWord a p).word)

/-- R145, R146, R149: DEC.FLUSH emits the low 8 bits of the pending bits with the lone value above them when
a low symbol is pending, and nothing otherwise, however many bits are pending; the decoder is left fresh,
but for DEC_ERR.  While halted it does nothing. -/
def Obligations.DecFlushResult : Prop :=
  encode .decFlush = 0x1200#16 ∧ (∀ d : Byte, d ≠ 0#8 → decode (0x12#8 ++ d) = .error (.nonzeroData 0x12#8 d)) ∧
  ∀ s : State,
    (s.decErr = true → exec .decFlush s = .next (s.respond .decHalted [])) ∧
    (s.decErr = false → s.decPwv = false → exec .decFlush s = .next (State.respond .ok []
      { s with decPwv := false, decPw := 0#7, decAcc := 0#21, decPend := 0#5 })) ∧
    (s.decErr = false → s.decPwv = true → DecInv s → exec .decFlush s = .next (State.respond .ok
      [BitVec.ofNat 8 (s.decAcc.toNat + s.decPw.toNat * 2 ^ s.decPend.toNat)]
      { s with decPwv := false, decPw := 0#7, decAcc := 0#21, decPend := 0#5 }))

/-- R147: DEC.CLEAR, in every state. -/
def Obligations.DecClearResult : Prop :=
  encode .decClear = 0x1300#16 ∧ (∀ d : Byte, d ≠ 0#8 → decode (0x13#8 ++ d) = .error (.nonzeroData 0x13#8 d)) ∧
  ∀ s : State, exec .decClear s = .next (State.respond .ok []
    { s with decPwv := false, decPw := 0#7, decAcc := 0#21, decPend := 0#5, decErr := false })

/-- R151: how many bytes a decoder command emits. -/
def Obligations.DecoderOutputCounts : Prop :=
  ∀ s : State, DecInv s →
    (∀ c : Byte, ∃ r, responseOf (exec (.decWrite c) s) = some r ∧
      ((s.decErr = true ∨ decLut c = none ∨ s.decPwv = false) → (rspOutput r).length = 0) ∧
      (s.decErr = false → decLut c ≠ none → s.decPwv = true →
        (rspOutput r).length = 1 ∨ (rspOutput r).length = 2)) ∧
    (∃ r, responseOf (exec .decFlush s) = some r ∧ (rspOutput r).length ≤ 1) ∧
    (∃ r, responseOf (exec .decClear s) = some r ∧ (rspOutput r).length = 0)

/-- R28, R140: every decoder command keeps the decoder invariant, every other command leaves it, and inside
DEC.WRITE, after the OR, at most 21 bits are pending and nothing stands above them. -/
def Obligations.DecoderInvariantKept : Prop :=
  DecInv State.reset ∧
  ∀ s : State, DecInv s →
    (∀ (i : Instr) (t : State), exec i s = .next t → DecInv t) ∧
    (∀ v : SymVal, v.toNat ≤ 92 →
      s.decPend.toNat + wordWidth (pairWord s.decPw v) ≤ 21 ∧
      (appendBits s.decAcc s.decPend (pairWord s.decPw v)).toNat <
        2 ^ (s.decPend.toNat + wordWidth (pairWord s.decPw v)))

/-- R149: a halted decoder answers every DEC.WRITE and DEC.FLUSH of a run with DEC_HALTED and no output and
changes no register, however long the run; DEC.CLEAR and reset clear the flag; an encoder or lookup
command answers as it would with the flag clear. -/
def Obligations.HaltedUntilCleared : Prop :=
  ∀ (s : State) (is : List Instr), s.decErr = true →
    (∀ i ∈ is, i = .decFlush ∨ ∃ c, i = .decWrite c) →
    (∃ t, runWords (wordsOf is) s = .next t ∧
      newRsps s t = List.replicate is.length (packRsp .decHalted []) ∧ SameEnc s t ∧ SameDec s t) ∧
    exec .decClear s = .next (State.respond .ok []
      { s with decPwv := false, decPw := 0#7, decAcc := 0#21, decPend := 0#5, decErr := false }) ∧
    s.applyReset.decErr = false ∧
    (∀ i : Instr, isDec i = false → responseOf (exec i s) = responseOf (exec i { s with decErr := false }))

/-- R148, R143: a decoder session of alphabet members never reports an error, whatever the members are and
wherever the stream is cut. -/
def Obligations.AlphabetOnlyInputDecodes : Prop :=
  ∀ (s : State) (cs : List Byte), (∀ c ∈ cs, decLut c ≠ none) →
    ∃ t, runWords (wordsOf (decodeSession cs)) s = .next t ∧ allOk (newRsps s t) = true ∧
      (newRsps s t).length = cs.length + 2

/-- R142, R149, R209: a decoder session with a code outside the alphabet among its symbols runs to its end, not
every response is OK, and the one-shot decode is an error whatever output there was before. -/
def Obligations.NonMemberFailsDecodeSession : Prop :=
  ∀ (s : State) (existing cs : List Byte), (∃ c ∈ cs, decLut c = none) →
    (∃ t, runWords (wordsOf (decodeSession cs)) s = .next t ∧ allOk (newRsps s t) = false ∧
      t.decErr = true) ∧
    oneShotDecode existing cs s = none

/-- R205, R206: a session that ends with its flush leaves its unit fresh, so that the next session needs no
CLEAR: the encoder after any writes, and the decoder after any writes of alphabet members. -/
def Obligations.FlushedSessionLeavesUnitFresh : Prop :=
  (∀ (s : State) (bs : List Byte), EncInv s →
    ∃ t, runWords (wordsOf (bs.map Instr.encWrite ++ [.encFlush])) s = .next t ∧ SameEnc State.reset t) ∧
  (∀ (s : State) (cs : List Byte), s.decErr = false → (∀ c ∈ cs, decLut c ≠ none) →
    ∃ t, runWords (wordsOf (cs.map Instr.decWrite ++ [.decFlush])) s = .next t ∧ SameDec State.reset t)

/-- R150, R14: the round trip.  An encoder session of any bytes, from any state, reports OK throughout; a
decoder session of its symbols, from any state, reports OK throughout and gives the bytes back. -/
def Obligations.DecodeInvertsEncodeOnStreams : Prop :=
  ∀ (s s' : State) (bs : List Byte),
    ∃ t t', runWords (wordsOf (encodeSession bs)) s = .next t ∧
      runWords (wordsOf (decodeSession (outputs (newRsps s t)))) s' = .next t' ∧
      allOk (newRsps s t) = true ∧ allOk (newRsps s' t') = true ∧ outputs (newRsps s' t') = bs

/-! ## Lookups -/

/-- R104, R174: LUT.ENC reads the forward table below index 93 and reports LUT_RANGE from there on; it
writes no register. -/
def Obligations.LutEncResult : Prop :=
  ∀ (k : Byte) (s : State), encode (.lutEnc k) = 0x21#8 ++ k ∧
    (k.toNat < 93 → ∃ b, encLut k.toNat = some b ∧ exec (.lutEnc k) s = .next (s.respond .ok [b])) ∧
    (93 ≤ k.toNat → exec (.lutEnc k) s = .next (s.respond .lutRange []))

/-- R105: LUT.DEC reads the reverse table and reports INVALID_SYMBOL for a non-member; it writes no register,
DEC_ERR among them. -/
def Obligations.LutDecResult : Prop :=
  ∀ (c : Byte) (s : State), encode (.lutDec c) = 0x22#8 ++ c ∧
    (∀ v, decLut c = some v →
      v.toNat ≤ 92 ∧ exec (.lutDec c) s = .next (s.respond .ok [BitVec.ofNat 8 v.toNat])) ∧
    (decLut c = none → exec (.lutDec c) s = .next (s.respond .invalidSymbol []))

/-- R60: a lookup and a CLEAR are idempotent.  Done again right after itself, the command gives the same
response and leaves every register as it left it; a lookup leaves every register as it found it. -/
def Obligations.LookupsAndClearsAreIdempotent : Prop :=
  ∀ (i : Instr) (s : State),
    (i = .encClear ∨ i = .decClear ∨ (∃ k, i = .lutEnc k) ∨ ∃ c, i = .lutDec c) →
    ∃ t u r, transact (encode i) s = .next t ∧ transact (encode i) t = .next u ∧
      t.taken = s.taken ++ [r] ∧ u.taken = s.taken ++ [r, r] ∧ SameEnc t u ∧ SameDec t u ∧
      ((isEnc i = false ∧ isDec i = false) → SameEnc s t ∧ SameDec s t)

/-! ## Reset, the ports and runs -/

/-- R38: the reset state. -/
def Obligations.ResetState : Prop :=
  State.reset.encAcc = 0#21 ∧ State.reset.encPend = 0#5 ∧ State.reset.decPwv = false ∧
  State.reset.decPw = 0#7 ∧ State.reset.decAcc = 0#21 ∧ State.reset.decPend = 0#5 ∧
  State.reset.decErr = false ∧ State.reset.cmdReady false = true ∧ State.reset.rspPresented false = none

/-- R200, R201: an edge with `rst = 1`, in any state and whatever else the host drives: every register takes
its reset value, a command in flight is abandoned and its response is not taken; `cmd_ready` and
`rsp_valid` are 0 while `rst = 1`, and `cmd_ready` is 1 once it is 0 again. -/
def Obligations.ResetEdge : Prop :=
  ∀ s : State, s.sample.rst = true →
    s.cmdReady true = false ∧ s.rspValid true = false ∧
    ∃ t, step s = .next t ∧ SameEnc State.reset t ∧ SameDec State.reset t ∧ t.handshake = .ready ∧
      t.cmdReady false = true ∧ t.rspPresented false = none ∧ t.taken = s.taken ∧
      t.pins = s.pins.tail ∧ t.hadReset = true

/-- R71, R75, R173: at an edge at which the block is ready and the host presents a word it has held stable,
step is the effect of the command the word decodes to, on the state with that sample consumed; a word that
decodes to nothing is ILLEGAL_CMD.  `withFetchWord` sets up exactly such an edge, a response still in flight
taken first. -/
def Obligations.StepRunsDecodedCommand : Prop :=
  (∀ (s : State) (i : Instr), s.hadReset = true → s.handshake = .ready → s.sample.rst = false →
    s.sample.cmdValid = true → s.heldStable s.sample.cmdWord = true → decode s.sample.cmdWord = .ok i →
    step s = exec i { s with pins := s.pins.tail, offered := [] }) ∧
  (∀ (s : State) (e : Illegal), s.hadReset = true → s.handshake = .ready → s.sample.rst = false →
    s.sample.cmdValid = true → s.heldStable s.sample.cmdWord = true → decode s.sample.cmdWord = .error e →
    step s = .next (State.respond .illegalCmd [] { s with pins := s.pins.tail, offered := [] })) ∧
  (∀ (s : State) (w : Nat) (i : Instr), decode (BitVec.ofNat 16 w) = .ok i →
    step (s.withFetchWord 16 w) = exec i { s.takeRsp with hadReset := true, offered := [] })

/-- R212 (b), U5: when the host changed the word before it was accepted, the step runs one of the words the
host presented, whichever it is. -/
def Obligations.ChangedWordRunsOneOffered : Prop :=
  ∀ s : State, s.hadReset = true → s.handshake = .ready → s.sample.rst = false →
    s.sample.cmdValid = true → s.heldStable s.sample.cmdWord = false →
    ∃ w, (w ∈ s.offered ∨ w = s.sample.cmdWord) ∧
      step s = runWord w { s with pins := s.pins.tail, offered := [], freeCount := s.freeCount + 1 }

/-- R71 point 2, R212 (a): while a command is in flight the block is not ready, and a command presented then
is not accepted and is no error: no register changes, and the only response still to come is the one in
flight, unless it is taken at this very edge. -/
def Obligations.CommandWaitsWhileInFlight : Prop :=
  ∀ (s : State) (n : Nat) (r : Rsp), s.handshake = .inFlight n r → s.sample.rst = false →
    s.cmdReady false = false ∧
    ∃ t, step s = .next t ∧ SameEnc s t ∧ SameDec s t ∧
      ((t.taken = s.taken ∧ ∃ m, t.handshake = .inFlight m r) ∨
       (t.taken = s.taken ++ [r] ∧ t.handshake = .ready)) ∧
      t.offered = if s.sample.cmdValid then s.offered ++ [s.sample.cmdWord] else s.offered

/-- R71 points 3 and 4: a response is presented exactly CMD_LATENCY cycles after acceptance, whatever the
host drives but reset; it is held while the host is not ready for it, and taken at the first edge at which
the host is. -/
def Obligations.ResponseAfterLatencyHeldUntilTaken : Prop :=
  (∀ (s : State) (r : Rsp) (ps rest : List PinSample), s.handshake = .inFlight 1 r →
    s.pins = ps ++ rest → (∀ p ∈ ps, p.rst = false) → ps.length < Config.cmdLatency →
    ∃ t, runEdges ps.length s = .next t ∧ t.handshake = .inFlight (ps.length + 1) r ∧
      t.pins = rest ∧ t.taken = s.taken ∧ SameEnc s t ∧ SameDec s t ∧
      (t.rspValid false = true ↔ ps.length + 1 = Config.cmdLatency)) ∧
  (∀ (s : State) (r : Rsp) (ps : List PinSample) (p : PinSample) (rest : List PinSample),
    s.rspPresented false = some r → s.pins = ps ++ p :: rest →
    (∀ q ∈ ps, q.rst = false ∧ q.rspReady = false) → p.rst = false → p.rspReady = true →
    ∃ u t, runEdges ps.length s = .next u ∧ u.rspPresented false = some r ∧ u.taken = s.taken ∧
      step u = .next t ∧ t.taken = s.taken ++ [r] ∧ t.pins = rest ∧ SameEnc s t ∧ SameDec s t ∧
      t.cmdReady false = true ∧ t.rspPresented false = none)

/-- R185: the idle block holds its state for any length of time, as long as the host presents no command and
no reset. -/
def Obligations.IdleBlockHoldsState : Prop :=
  ∀ (s : State) (ps rest : List PinSample), s.handshake = .ready → s.pins = ps ++ rest →
    (∀ p ∈ ps, p.rst = false ∧ p.cmdValid = false) →
    runEdges ps.length s = .next { s with pins := rest }

/-- R6, R71, R63: the ports carry out a run of transactions.  From a ready block, driving the inputs of a
list of words, one transaction each, takes the machine, edge by edge, where the run of transactions takes
it in single steps: the same registers, the same responses in the same order, or the same stop. -/
def Obligations.PortsRefineTransactions : Prop :=
  ∀ (s : State) (ws : List Cmd) (rest : List PinSample), s.hadReset = true → s.handshake = .ready →
    s.offered = [] → s.pins = runPins ws ++ rest →
    runEdges (ws.length * (Config.cmdLatency + 1)) s = runWords ws { s with pins := rest }

/-- R202, R204, U4: before the first reset a presented command is refused (the spec leaves it outside the
model); the first edge with `rst = 1` takes the power-up state, whatever it is, to the reset state. -/
def Obligations.PowerUpNeedsReset : Prop :=
  (∀ s : State, s.hadReset = false → s.handshake = .ready → s.sample.rst = false →
    s.sample.cmdValid = true → step s = .refused .beforeFirstReset) ∧
  (∀ (p : PinSample) (rest : List PinSample), p.rst = true →
    step { State.powerUp with pins := p :: rest } = .next { State.reset with pins := rest })

/-- The invariant of the whole block holds at reset and at power-up. -/
def Obligations.InvariantHoldsInitially : Prop := Inv State.reset ∧ Inv State.powerUp

/-- R23, R28, R25, R79 over a step: whatever the host drives, a step from a state that meets the invariant
leaves a state that meets it. -/
def Obligations.StepKeepsInvariant : Prop := ∀ s t : State, Inv s → step s = .next t → Inv t

/-- R215: the block never stops by itself.  Once reset has been applied, every step from a state that meets
the invariant answers a next state, for ever, whatever words the host presents. -/
def Obligations.BlockNeverStops : Prop :=
  ∀ s : State, s.hadReset = true → Inv s → ∀ k, ∃ t, runEdges k s = .next t

/-- R213: encoder, decoder and lookup commands interleaved in any order: each unit gives the responses, in
order, that it gives when its commands run alone, and is left with the same registers. -/
def Obligations.UnitsInterleaveFreely : Prop :=
  ∀ (s : State) (is : List Instr), EncInv s →
    ∃ t te td, runWords (wordsOf is) s = .next t ∧
      runWords (wordsOf (is.filter isEnc)) s = .next te ∧
      runWords (wordsOf (is.filter isDec)) s = .next td ∧
      (((is.zip (newRsps s t)).filter fun x => isEnc x.1).map Prod.snd) = newRsps s te ∧
      (((is.zip (newRsps s t)).filter fun x => isDec x.1).map Prod.snd) = newRsps s td ∧
      SameEnc te t ∧ SameDec td t

/-- R37, R67, R183: an edge at one block of a platform leaves every other block alone, and edges at two
different blocks give the same platform in either order. -/
def Obligations.CoresAreIndependent : Prop :=
  ∀ (n : Nat) (p : Platform n) (j k : Fin n), j ≠ k →
    (∀ q, p.stepAt j = some q → q[k] = p[k] ∧ .next q[j] = step p[j]) ∧
    ((p.stepAt j).bind fun q => q.stepAt k) = ((p.stepAt k).bind fun q => q.stepAt j)
end

