-- ==== Sys2Proof/Laws/Decode.lean ====
section
/-! SUPPORT. The fields of a command word and the encoder: one lemma per constructor, and when a command
without operand decodes. -/

namespace Sys2Proof

/-- The opcode of a word put together from two fields. -/
@[simp] theorem opcOf_append (o d : Byte) : opcOf (o ++ d) = o := by
  apply BitVec.eq_of_getLsbD_eq
  intro i hi
  simp only [opcOf, BitVec.getLsbD_extractLsb', BitVec.getLsbD_append]
  have h : ¬ 8 + i < 8 := by omega
  simp [h, hi]

/-- The DATA field of a word put together from two fields. -/
@[simp] theorem dataOf_append (o d : Byte) : dataOf (o ++ d) = d := by
  apply BitVec.eq_of_getLsbD_eq
  intro i hi
  simp only [dataOf, BitVec.getLsbD_extractLsb', BitVec.getLsbD_append]
  simp [hi]

/-- A word is put together from its two fields. -/
theorem append_fields (w : Cmd) : opcOf w ++ dataOf w = w := by
  apply BitVec.eq_of_getLsbD_eq
  intro i hi
  simp only [opcOf, dataOf, BitVec.getLsbD_append, BitVec.getLsbD_extractLsb']
  by_cases h : i < 8
  · simp [h]
  · simp [h, show i - 8 < 8 by omega, show 8 + (i - 8) = i by omega]

/-- Decoding a word put together from two fields. -/
@[simp] theorem decode_append (o d : Byte) : decode (o ++ d) = decodeFields o d := by
  simp [decode]

/-- Decoding an encoded command goes through its opcode and operand. -/
theorem decode_encode_fields (i : Instr) : decode (encode i) = decodeFields (opcodeOf i) (operandOf i) :=
  decode_append _ _

/-- A command without operand decodes exactly when DATA is 0x00. -/
theorem decodeBare_eq_ok {o d : Byte} {i j : Instr} : decodeBare o d i = .ok j ↔ d = 0#8 ∧ i = j := by
  unfold decodeBare; split <;> simp [*]

/-- A command without operand is rejected exactly when DATA is not 0x00, and as such. -/
theorem decodeBare_eq_error {o d : Byte} {i : Instr} {e : Illegal} :
    decodeBare o d i = .error e ↔ d ≠ 0#8 ∧ e = .nonzeroData o d := by
  unfold decodeBare; split <;> simp [*, eq_comm]

end Sys2Proof
end

