-- ==== Sys2Proof/Laws/State.lean ====
section
/-! SUPPORT. What each update of State does to each field, one lemma each, so that no proof unfolds a record
update.  The updates that look at the handshake first (`takeRsp`, `countCycle`, `noteOffer`) stand last. -/

namespace Sys2Proof.Machine

/-! ### respond -/

@[simp] theorem State.respond_encAcc (st : Status) (out : List Byte) (s : State) : (s.respond st out).encAcc = s.encAcc := rfl
@[simp] theorem State.respond_encPend (st : Status) (out : List Byte) (s : State) : (s.respond st out).encPend = s.encPend := rfl
@[simp] theorem State.respond_decPwv (st : Status) (out : List Byte) (s : State) : (s.respond st out).decPwv = s.decPwv := rfl
@[simp] theorem State.respond_decPw (st : Status) (out : List Byte) (s : State) : (s.respond st out).decPw = s.decPw := rfl
@[simp] theorem State.respond_decAcc (st : Status) (out : List Byte) (s : State) : (s.respond st out).decAcc = s.decAcc := rfl
@[simp] theorem State.respond_decPend (st : Status) (out : List Byte) (s : State) : (s.respond st out).decPend = s.decPend := rfl
@[simp] theorem State.respond_decErr (st : Status) (out : List Byte) (s : State) : (s.respond st out).decErr = s.decErr := rfl
@[simp] theorem State.respond_handshake (st : Status) (out : List Byte) (s : State) : (s.respond st out).handshake = .inFlight 1 (packRsp st out) := rfl
@[simp] theorem State.respond_hadReset (st : Status) (out : List Byte) (s : State) : (s.respond st out).hadReset = s.hadReset := rfl
@[simp] theorem State.respond_pins (st : Status) (out : List Byte) (s : State) : (s.respond st out).pins = s.pins := rfl
@[simp] theorem State.respond_offered (st : Status) (out : List Byte) (s : State) : (s.respond st out).offered = s.offered := rfl
@[simp] theorem State.respond_freeCount (st : Status) (out : List Byte) (s : State) : (s.respond st out).freeCount = s.freeCount := rfl
@[simp] theorem State.respond_taken (st : Status) (out : List Byte) (s : State) : (s.respond st out).taken = s.taken := rfl

/-! ### setEncoder -/

@[simp] theorem State.setEncoder_encAcc (a : Acc) (p : Pend) (s : State) : (s.setEncoder a p).encAcc = a := rfl
@[simp] theorem State.setEncoder_encPend (a : Acc) (p : Pend) (s : State) : (s.setEncoder a p).encPend = p := rfl
@[simp] theorem State.setEncoder_decPwv (a : Acc) (p : Pend) (s : State) : (s.setEncoder a p).decPwv = s.decPwv := rfl
@[simp] theorem State.setEncoder_decPw (a : Acc) (p : Pend) (s : State) : (s.setEncoder a p).decPw = s.decPw := rfl
@[simp] theorem State.setEncoder_decAcc (a : Acc) (p : Pend) (s : State) : (s.setEncoder a p).decAcc = s.decAcc := rfl
@[simp] theorem State.setEncoder_decPend (a : Acc) (p : Pend) (s : State) : (s.setEncoder a p).decPend = s.decPend := rfl
@[simp] theorem State.setEncoder_decErr (a : Acc) (p : Pend) (s : State) : (s.setEncoder a p).decErr = s.decErr := rfl
@[simp] theorem State.setEncoder_handshake (a : Acc) (p : Pend) (s : State) : (s.setEncoder a p).handshake = s.handshake := rfl
@[simp] theorem State.setEncoder_hadReset (a : Acc) (p : Pend) (s : State) : (s.setEncoder a p).hadReset = s.hadReset := rfl
@[simp] theorem State.setEncoder_pins (a : Acc) (p : Pend) (s : State) : (s.setEncoder a p).pins = s.pins := rfl
@[simp] theorem State.setEncoder_offered (a : Acc) (p : Pend) (s : State) : (s.setEncoder a p).offered = s.offered := rfl
@[simp] theorem State.setEncoder_freeCount (a : Acc) (p : Pend) (s : State) : (s.setEncoder a p).freeCount = s.freeCount := rfl
@[simp] theorem State.setEncoder_taken (a : Acc) (p : Pend) (s : State) : (s.setEncoder a p).taken = s.taken := rfl

/-! ### setDecoder -/

@[simp] theorem State.setDecoder_encAcc (a : Acc) (p : Pend) (s : State) : (s.setDecoder a p).encAcc = s.encAcc := rfl
@[simp] theorem State.setDecoder_encPend (a : Acc) (p : Pend) (s : State) : (s.setDecoder a p).encPend = s.encPend := rfl
@[simp] theorem State.setDecoder_decPwv (a : Acc) (p : Pend) (s : State) : (s.setDecoder a p).decPwv = s.decPwv := rfl
@[simp] theorem State.setDecoder_decPw (a : Acc) (p : Pend) (s : State) : (s.setDecoder a p).decPw = s.decPw := rfl
@[simp] theorem State.setDecoder_decAcc (a : Acc) (p : Pend) (s : State) : (s.setDecoder a p).decAcc = a := rfl
@[simp] theorem State.setDecoder_decPend (a : Acc) (p : Pend) (s : State) : (s.setDecoder a p).decPend = p := rfl
@[simp] theorem State.setDecoder_decErr (a : Acc) (p : Pend) (s : State) : (s.setDecoder a p).decErr = s.decErr := rfl
@[simp] theorem State.setDecoder_handshake (a : Acc) (p : Pend) (s : State) : (s.setDecoder a p).handshake = s.handshake := rfl
@[simp] theorem State.setDecoder_hadReset (a : Acc) (p : Pend) (s : State) : (s.setDecoder a p).hadReset = s.hadReset := rfl
@[simp] theorem State.setDecoder_pins (a : Acc) (p : Pend) (s : State) : (s.setDecoder a p).pins = s.pins := rfl
@[simp] theorem State.setDecoder_offered (a : Acc) (p : Pend) (s : State) : (s.setDecoder a p).offered = s.offered := rfl
@[simp] theorem State.setDecoder_freeCount (a : Acc) (p : Pend) (s : State) : (s.setDecoder a p).freeCount = s.freeCount := rfl
@[simp] theorem State.setDecoder_taken (a : Acc) (p : Pend) (s : State) : (s.setDecoder a p).taken = s.taken := rfl

/-! ### holdLow -/

@[simp] theorem State.holdLow_encAcc (v : SymVal) (s : State) : (s.holdLow v).encAcc = s.encAcc := rfl
@[simp] theorem State.holdLow_encPend (v : SymVal) (s : State) : (s.holdLow v).encPend = s.encPend := rfl
@[simp] theorem State.holdLow_decPwv (v : SymVal) (s : State) : (s.holdLow v).decPwv = true := rfl
@[simp] theorem State.holdLow_decPw (v : SymVal) (s : State) : (s.holdLow v).decPw = v := rfl
@[simp] theorem State.holdLow_decAcc (v : SymVal) (s : State) : (s.holdLow v).decAcc = s.decAcc := rfl
@[simp] theorem State.holdLow_decPend (v : SymVal) (s : State) : (s.holdLow v).decPend = s.decPend := rfl
@[simp] theorem State.holdLow_decErr (v : SymVal) (s : State) : (s.holdLow v).decErr = s.decErr := rfl
@[simp] theorem State.holdLow_handshake (v : SymVal) (s : State) : (s.holdLow v).handshake = s.handshake := rfl
@[simp] theorem State.holdLow_hadReset (v : SymVal) (s : State) : (s.holdLow v).hadReset = s.hadReset := rfl
@[simp] theorem State.holdLow_pins (v : SymVal) (s : State) : (s.holdLow v).pins = s.pins := rfl
@[simp] theorem State.holdLow_offered (v : SymVal) (s : State) : (s.holdLow v).offered = s.offered := rfl
@[simp] theorem State.holdLow_freeCount (v : SymVal) (s : State) : (s.holdLow v).freeCount = s.freeCount := rfl
@[simp] theorem State.holdLow_taken (v : SymVal) (s : State) : (s.holdLow v).taken = s.taken := rfl

/-! ### dropLow -/

@[simp] theorem State.dropLow_encAcc (s : State) : (s.dropLow).encAcc = s.encAcc := rfl
@[simp] theorem State.dropLow_encPend (s : State) : (s.dropLow).encPend = s.encPend := rfl
@[simp] theorem State.dropLow_decPwv (s : State) : (s.dropLow).decPwv = false := rfl
@[simp] theorem State.dropLow_decPw (s : State) : (s.dropLow).decPw = 0#7 := rfl
@[simp] theorem State.dropLow_decAcc (s : State) : (s.dropLow).decAcc = s.decAcc := rfl
@[simp] theorem State.dropLow_decPend (s : State) : (s.dropLow).decPend = s.decPend := rfl
@[simp] theorem State.dropLow_decErr (s : State) : (s.dropLow).decErr = s.decErr := rfl
@[simp] theorem State.dropLow_handshake (s : State) : (s.dropLow).handshake = s.handshake := rfl
@[simp] theorem State.dropLow_hadReset (s : State) : (s.dropLow).hadReset = s.hadReset := rfl
@[simp] theorem State.dropLow_pins (s : State) : (s.dropLow).pins = s.pins := rfl
@[simp] theorem State.dropLow_offered (s : State) : (s.dropLow).offered = s.offered := rfl
@[simp] theorem State.dropLow_freeCount (s : State) : (s.dropLow).freeCount = s.freeCount := rfl
@[simp] theorem State.dropLow_taken (s : State) : (s.dropLow).taken = s.taken := rfl

/-! ### setDecErr -/

@[simp] theorem State.setDecErr_encAcc (b : Bool) (s : State) : (s.setDecErr b).encAcc = s.encAcc := rfl
@[simp] theorem State.setDecErr_encPend (b : Bool) (s : State) : (s.setDecErr b).encPend = s.encPend := rfl
@[simp] theorem State.setDecErr_decPwv (b : Bool) (s : State) : (s.setDecErr b).decPwv = s.decPwv := rfl
@[simp] theorem State.setDecErr_decPw (b : Bool) (s : State) : (s.setDecErr b).decPw = s.decPw := rfl
@[simp] theorem State.setDecErr_decAcc (b : Bool) (s : State) : (s.setDecErr b).decAcc = s.decAcc := rfl
@[simp] theorem State.setDecErr_decPend (b : Bool) (s : State) : (s.setDecErr b).decPend = s.decPend := rfl
@[simp] theorem State.setDecErr_decErr (b : Bool) (s : State) : (s.setDecErr b).decErr = b := rfl
@[simp] theorem State.setDecErr_handshake (b : Bool) (s : State) : (s.setDecErr b).handshake = s.handshake := rfl
@[simp] theorem State.setDecErr_hadReset (b : Bool) (s : State) : (s.setDecErr b).hadReset = s.hadReset := rfl
@[simp] theorem State.setDecErr_pins (b : Bool) (s : State) : (s.setDecErr b).pins = s.pins := rfl
@[simp] theorem State.setDecErr_offered (b : Bool) (s : State) : (s.setDecErr b).offered = s.offered := rfl
@[simp] theorem State.setDecErr_freeCount (b : Bool) (s : State) : (s.setDecErr b).freeCount = s.freeCount := rfl
@[simp] theorem State.setDecErr_taken (b : Bool) (s : State) : (s.setDecErr b).taken = s.taken := rfl

/-! ### applyReset -/

@[simp] theorem State.applyReset_encAcc (s : State) : (s.applyReset).encAcc = 0#21 := rfl
@[simp] theorem State.applyReset_encPend (s : State) : (s.applyReset).encPend = 0#5 := rfl
@[simp] theorem State.applyReset_decPwv (s : State) : (s.applyReset).decPwv = false := rfl
@[simp] theorem State.applyReset_decPw (s : State) : (s.applyReset).decPw = 0#7 := rfl
@[simp] theorem State.applyReset_decAcc (s : State) : (s.applyReset).decAcc = 0#21 := rfl
@[simp] theorem State.applyReset_decPend (s : State) : (s.applyReset).decPend = 0#5 := rfl
@[simp] theorem State.applyReset_decErr (s : State) : (s.applyReset).decErr = false := rfl
@[simp] theorem State.applyReset_handshake (s : State) : (s.applyReset).handshake = .ready := rfl
@[simp] theorem State.applyReset_hadReset (s : State) : (s.applyReset).hadReset = true := rfl
@[simp] theorem State.applyReset_pins (s : State) : (s.applyReset).pins = s.pins := rfl
@[simp] theorem State.applyReset_offered (s : State) : (s.applyReset).offered = [] := rfl
@[simp] theorem State.applyReset_freeCount (s : State) : (s.applyReset).freeCount = s.freeCount := rfl
@[simp] theorem State.applyReset_taken (s : State) : (s.applyReset).taken = s.taken := rfl

/-! ### dropPins -/

@[simp] theorem State.dropPins_encAcc (s : State) : (s.dropPins).encAcc = s.encAcc := rfl
@[simp] theorem State.dropPins_encPend (s : State) : (s.dropPins).encPend = s.encPend := rfl
@[simp] theorem State.dropPins_decPwv (s : State) : (s.dropPins).decPwv = s.decPwv := rfl
@[simp] theorem State.dropPins_decPw (s : State) : (s.dropPins).decPw = s.decPw := rfl
@[simp] theorem State.dropPins_decAcc (s : State) : (s.dropPins).decAcc = s.decAcc := rfl
@[simp] theorem State.dropPins_decPend (s : State) : (s.dropPins).decPend = s.decPend := rfl
@[simp] theorem State.dropPins_decErr (s : State) : (s.dropPins).decErr = s.decErr := rfl
@[simp] theorem State.dropPins_handshake (s : State) : (s.dropPins).handshake = s.handshake := rfl
@[simp] theorem State.dropPins_hadReset (s : State) : (s.dropPins).hadReset = s.hadReset := rfl
@[simp] theorem State.dropPins_pins (s : State) : (s.dropPins).pins = s.pins.tail := rfl
@[simp] theorem State.dropPins_offered (s : State) : (s.dropPins).offered = s.offered := rfl
@[simp] theorem State.dropPins_freeCount (s : State) : (s.dropPins).freeCount = s.freeCount := rfl
@[simp] theorem State.dropPins_taken (s : State) : (s.dropPins).taken = s.taken := rfl

/-! ### clearOffers -/

@[simp] theorem State.clearOffers_encAcc (s : State) : (s.clearOffers).encAcc = s.encAcc := rfl
@[simp] theorem State.clearOffers_encPend (s : State) : (s.clearOffers).encPend = s.encPend := rfl
@[simp] theorem State.clearOffers_decPwv (s : State) : (s.clearOffers).decPwv = s.decPwv := rfl
@[simp] theorem State.clearOffers_decPw (s : State) : (s.clearOffers).decPw = s.decPw := rfl
@[simp] theorem State.clearOffers_decAcc (s : State) : (s.clearOffers).decAcc = s.decAcc := rfl
@[simp] theorem State.clearOffers_decPend (s : State) : (s.clearOffers).decPend = s.decPend := rfl
@[simp] theorem State.clearOffers_decErr (s : State) : (s.clearOffers).decErr = s.decErr := rfl
@[simp] theorem State.clearOffers_handshake (s : State) : (s.clearOffers).handshake = s.handshake := rfl
@[simp] theorem State.clearOffers_hadReset (s : State) : (s.clearOffers).hadReset = s.hadReset := rfl
@[simp] theorem State.clearOffers_pins (s : State) : (s.clearOffers).pins = s.pins := rfl
@[simp] theorem State.clearOffers_offered (s : State) : (s.clearOffers).offered = [] := rfl
@[simp] theorem State.clearOffers_freeCount (s : State) : (s.clearOffers).freeCount = s.freeCount := rfl
@[simp] theorem State.clearOffers_taken (s : State) : (s.clearOffers).taken = s.taken := rfl

/-! ### countChoice -/

@[simp] theorem State.countChoice_encAcc (s : State) : (s.countChoice).encAcc = s.encAcc := rfl
@[simp] theorem State.countChoice_encPend (s : State) : (s.countChoice).encPend = s.encPend := rfl
@[simp] theorem State.countChoice_decPwv (s : State) : (s.countChoice).decPwv = s.decPwv := rfl
@[simp] theorem State.countChoice_decPw (s : State) : (s.countChoice).decPw = s.decPw := rfl
@[simp] theorem State.countChoice_decAcc (s : State) : (s.countChoice).decAcc = s.decAcc := rfl
@[simp] theorem State.countChoice_decPend (s : State) : (s.countChoice).decPend = s.decPend := rfl
@[simp] theorem State.countChoice_decErr (s : State) : (s.countChoice).decErr = s.decErr := rfl
@[simp] theorem State.countChoice_handshake (s : State) : (s.countChoice).handshake = s.handshake := rfl
@[simp] theorem State.countChoice_hadReset (s : State) : (s.countChoice).hadReset = s.hadReset := rfl
@[simp] theorem State.countChoice_pins (s : State) : (s.countChoice).pins = s.pins := rfl
@[simp] theorem State.countChoice_offered (s : State) : (s.countChoice).offered = s.offered := rfl
@[simp] theorem State.countChoice_freeCount (s : State) : (s.countChoice).freeCount = s.freeCount + 1 := rfl
@[simp] theorem State.countChoice_taken (s : State) : (s.countChoice).taken = s.taken := rfl

/-! ### takeRsp, countCycle, noteOffer -/

/-- Taking the response from a block with a command in flight. -/
theorem State.takeRsp_inFlight (s : State) {n : Nat} {r : Rsp} (h : s.handshake = .inFlight n r) :
    s.takeRsp = { s with handshake := .ready, taken := s.taken ++ [r] } := by
  simp [State.takeRsp, h]

/-- Taking the response just entered by `respond`. -/
@[simp] theorem State.takeRsp_respond (st : Status) (out : List Byte) (s : State) :
    (s.respond st out).takeRsp =
      { s with handshake := .ready, taken := s.taken ++ [packRsp st out] } := rfl

/-- Counting a cycle of a command in flight. -/
theorem State.countCycle_inFlight (s : State) {n : Nat} {r : Rsp} (h : s.handshake = .inFlight n r) :
    s.countCycle = { s with handshake := .inFlight (n + 1) r } := by
  simp [State.countCycle, h]

/-- No word presented: nothing is noted. -/
theorem State.noteOffer_none (s : State) {p : PinSample} (h : p.cmdValid = false) : s.noteOffer p = s := by
  simp [State.noteOffer, h]

/-- A word presented and not accepted is noted. -/
theorem State.noteOffer_some (s : State) {p : PinSample} (h : p.cmdValid = true) :
    s.noteOffer p = { s with offered := s.offered ++ [p.cmdWord] } := by
  simp [State.noteOffer, h]

@[simp] theorem State.takeRsp_encAcc (s : State) : (s.takeRsp).encAcc = s.encAcc := by
  unfold State.takeRsp; split <;> rfl
@[simp] theorem State.takeRsp_encPend (s : State) : (s.takeRsp).encPend = s.encPend := by
  unfold State.takeRsp; split <;> rfl
@[simp] theorem State.takeRsp_decPwv (s : State) : (s.takeRsp).decPwv = s.decPwv := by
  unfold State.takeRsp; split <;> rfl
@[simp] theorem State.takeRsp_decPw (s : State) : (s.takeRsp).decPw = s.decPw := by
  unfold State.takeRsp; split <;> rfl
@[simp] theorem State.takeRsp_decAcc (s : State) : (s.takeRsp).decAcc = s.decAcc := by
  unfold State.takeRsp; split <;> rfl
@[simp] theorem State.takeRsp_decPend (s : State) : (s.takeRsp).decPend = s.decPend := by
  unfold State.takeRsp; split <;> rfl
@[simp] theorem State.takeRsp_decErr (s : State) : (s.takeRsp).decErr = s.decErr := by
  unfold State.takeRsp; split <;> rfl
@[simp] theorem State.takeRsp_hadReset (s : State) : (s.takeRsp).hadReset = s.hadReset := by
  unfold State.takeRsp; split <;> rfl
@[simp] theorem State.takeRsp_pins (s : State) : (s.takeRsp).pins = s.pins := by
  unfold State.takeRsp; split <;> rfl
@[simp] theorem State.takeRsp_offered (s : State) : (s.takeRsp).offered = s.offered := by
  unfold State.takeRsp; split <;> rfl
@[simp] theorem State.takeRsp_freeCount (s : State) : (s.takeRsp).freeCount = s.freeCount := by
  unfold State.takeRsp; split <;> rfl

@[simp] theorem State.countCycle_encAcc (s : State) : (s.countCycle).encAcc = s.encAcc := by
  unfold State.countCycle; split <;> rfl
@[simp] theorem State.countCycle_encPend (s : State) : (s.countCycle).encPend = s.encPend := by
  unfold State.countCycle; split <;> rfl
@[simp] theorem State.countCycle_decPwv (s : State) : (s.countCycle).decPwv = s.decPwv := by
  unfold State.countCycle; split <;> rfl
@[simp] theorem State.countCycle_decPw (s : State) : (s.countCycle).decPw = s.decPw := by
  unfold State.countCycle; split <;> rfl
@[simp] theorem State.countCycle_decAcc (s : State) : (s.countCycle).decAcc = s.decAcc := by
  unfold State.countCycle; split <;> rfl
@[simp] theorem State.countCycle_decPend (s : State) : (s.countCycle).decPend = s.decPend := by
  unfold State.countCycle; split <;> rfl
@[simp] theorem State.countCycle_decErr (s : State) : (s.countCycle).decErr = s.decErr := by
  unfold State.countCycle; split <;> rfl
@[simp] theorem State.countCycle_hadReset (s : State) : (s.countCycle).hadReset = s.hadReset := by
  unfold State.countCycle; split <;> rfl
@[simp] theorem State.countCycle_pins (s : State) : (s.countCycle).pins = s.pins := by
  unfold State.countCycle; split <;> rfl
@[simp] theorem State.countCycle_offered (s : State) : (s.countCycle).offered = s.offered := by
  unfold State.countCycle; split <;> rfl
@[simp] theorem State.countCycle_freeCount (s : State) : (s.countCycle).freeCount = s.freeCount := by
  unfold State.countCycle; split <;> rfl
@[simp] theorem State.countCycle_taken (s : State) : (s.countCycle).taken = s.taken := by
  unfold State.countCycle; split <;> rfl

@[simp] theorem State.noteOffer_encAcc (p : PinSample) (s : State) : (s.noteOffer p).encAcc = s.encAcc := by
  unfold State.noteOffer; split <;> rfl
@[simp] theorem State.noteOffer_encPend (p : PinSample) (s : State) : (s.noteOffer p).encPend = s.encPend := by
  unfold State.noteOffer; split <;> rfl
@[simp] theorem State.noteOffer_decPwv (p : PinSample) (s : State) : (s.noteOffer p).decPwv = s.decPwv := by
  unfold State.noteOffer; split <;> rfl
@[simp] theorem State.noteOffer_decPw (p : PinSample) (s : State) : (s.noteOffer p).decPw = s.decPw := by
  unfold State.noteOffer; split <;> rfl
@[simp] theorem State.noteOffer_decAcc (p : PinSample) (s : State) : (s.noteOffer p).decAcc = s.decAcc := by
  unfold State.noteOffer; split <;> rfl
@[simp] theorem State.noteOffer_decPend (p : PinSample) (s : State) : (s.noteOffer p).decPend = s.decPend := by
  unfold State.noteOffer; split <;> rfl
@[simp] theorem State.noteOffer_decErr (p : PinSample) (s : State) : (s.noteOffer p).decErr = s.decErr := by
  unfold State.noteOffer; split <;> rfl
@[simp] theorem State.noteOffer_handshake (p : PinSample) (s : State) : (s.noteOffer p).handshake = s.handshake := by
  unfold State.noteOffer; split <;> rfl
@[simp] theorem State.noteOffer_hadReset (p : PinSample) (s : State) : (s.noteOffer p).hadReset = s.hadReset := by
  unfold State.noteOffer; split <;> rfl
@[simp] theorem State.noteOffer_pins (p : PinSample) (s : State) : (s.noteOffer p).pins = s.pins := by
  unfold State.noteOffer; split <;> rfl
@[simp] theorem State.noteOffer_freeCount (p : PinSample) (s : State) : (s.noteOffer p).freeCount = s.freeCount := by
  unfold State.noteOffer; split <;> rfl
@[simp] theorem State.noteOffer_taken (p : PinSample) (s : State) : (s.noteOffer p).taken = s.taken := by
  unfold State.noteOffer; split <;> rfl

/-- Taking the response leaves the block ready (R71 point 4). -/
@[simp] theorem State.takeRsp_handshake (s : State) : s.takeRsp.handshake = .ready := by
  unfold State.takeRsp; split <;> simp [*]

/-! ### presenting -/

@[simp] theorem State.presenting_encAcc (w : Cmd) (s : State) : (s.presenting w).encAcc = s.encAcc := by
  simp [State.presenting]
@[simp] theorem State.presenting_encPend (w : Cmd) (s : State) : (s.presenting w).encPend = s.encPend := by
  simp [State.presenting]
@[simp] theorem State.presenting_decPwv (w : Cmd) (s : State) : (s.presenting w).decPwv = s.decPwv := by
  simp [State.presenting]
@[simp] theorem State.presenting_decPw (w : Cmd) (s : State) : (s.presenting w).decPw = s.decPw := by
  simp [State.presenting]
@[simp] theorem State.presenting_decAcc (w : Cmd) (s : State) : (s.presenting w).decAcc = s.decAcc := by
  simp [State.presenting]
@[simp] theorem State.presenting_decPend (w : Cmd) (s : State) : (s.presenting w).decPend = s.decPend := by
  simp [State.presenting]
@[simp] theorem State.presenting_decErr (w : Cmd) (s : State) : (s.presenting w).decErr = s.decErr := by
  simp [State.presenting]
@[simp] theorem State.presenting_handshake (w : Cmd) (s : State) : (s.presenting w).handshake = .ready := by
  simp [State.presenting]
@[simp] theorem State.presenting_hadReset (w : Cmd) (s : State) : (s.presenting w).hadReset = true := by
  simp [State.presenting]
@[simp] theorem State.presenting_pins (w : Cmd) (s : State) : (s.presenting w).pins = { cmdValid := true, cmdWord := w } :: s.pins := by
  simp [State.presenting]
@[simp] theorem State.presenting_offered (w : Cmd) (s : State) : (s.presenting w).offered = [] := by
  simp [State.presenting]
@[simp] theorem State.presenting_freeCount (w : Cmd) (s : State) : (s.presenting w).freeCount = s.freeCount := by
  simp [State.presenting]
@[simp] theorem State.presenting_taken (w : Cmd) (s : State) : (s.presenting w).taken = s.takeRsp.taken := by
  simp [State.presenting]

end Sys2Proof.Machine
end

