-- ==== Sys2Proof/Laws/Ops.lean ====
section
/-! SUPPORT. What each shared operation does, said once: the tables, the bit operations as arithmetic on
numbers, the response word, and the answers of the operations that can stop. -/

namespace Sys2Proof.Machine

/-! ## The tables -/

theorem alphabet_length : alphabet.length = 93 := rfl

/-- An index below 93 holds an entry (R50). -/
theorem encLut_of_lt {i : Nat} (h : i < 93) : ∃ b, encLut i = some b :=
  ⟨alphabet[i], List.getElem?_eq_getElem (by rw [alphabet_length]; exact h)⟩

/-- An index of 93 or above holds none (R51). -/
theorem encLut_of_ge {i : Nat} (h : 93 ≤ i) : encLut i = none :=
  List.getElem?_eq_none (by rw [alphabet_length]; exact h)

/-- An index that holds an entry is below 93 (R51). -/
theorem lt_of_encLut {i : Nat} {b : Byte} (h : encLut i = some b) : i < 93 := by
  by_contra hc
  simp [encLut_of_ge (Nat.le_of_not_lt hc)] at h

/-- A value of the reverse table is at most 92 (R50). -/
theorem decLut_le {c : Byte} {v : SymVal} (h : decLut c = some v) : v.toNat ≤ 92 := by
  have hc := c.isLt
  unfold decLut at h
  repeat' split at h
  all_goals first
    | cases h; done
    | (injection h with h; subst h; rw [BitVec.toNat_ofNat]; omega)

/-- A pair of symbols is there for every value up to `WORD_MAX` (R51, R124). -/
theorem symbolPair_of_le {n : Nat} (h : n ≤ 8648) :
    ∃ lo hi, encLut (n % 93) = some lo ∧ encLut (n / 93) = some hi ∧ symbolPair n = some [lo, hi] := by
  obtain ⟨lo, hlo⟩ := encLut_of_lt (Nat.mod_lt n (by omega : 0 < 93))
  obtain ⟨hi, hhi⟩ := encLut_of_lt (show n / 93 < 93 by omega)
  exact ⟨lo, hi, hlo, hhi, by simp [symbolPair, hlo, hhi]⟩

/-- A lone symbol is always there (R125). -/
theorem loneSymbol_eq (n : Nat) : ∃ lo, encLut (n % 93) = some lo ∧ loneSymbol n = some [lo] := by
  obtain ⟨lo, hlo⟩ := encLut_of_lt (Nat.mod_lt n (by omega : 0 < 93))
  exact ⟨lo, hlo, by simp [loneSymbol, hlo]⟩

/-! ## Bits as numbers -/

/-- Appending a value above the pending bits adds it, shifted: nothing overlaps and nothing is lost. -/
theorem appendBits_toNat {n : Nat} (a : Acc) (p : Pend) (v : BitVec n) (ha : a.toNat < 2 ^ p.toNat)
    (hn : p.toNat + n ≤ 21) : (appendBits a p v).toNat = a.toNat + v.toNat * 2 ^ p.toNat := by
  have hv := v.isLt
  have hp : (2 : Nat) ^ (p.toNat + n) ≤ 2 ^ 21 := Nat.pow_le_pow_right (by omega) hn
  have hvn : (2 : Nat) ^ n ≤ 2 ^ 21 := Nat.pow_le_pow_right (by omega) (by omega)
  have hm : v.toNat * 2 ^ p.toNat < 2 ^ 21 := by
    calc v.toNat * 2 ^ p.toNat < 2 ^ n * 2 ^ p.toNat :=
          Nat.mul_lt_mul_of_pos_right hv (Nat.two_pow_pos _)
      _ = 2 ^ (p.toNat + n) := by rw [Nat.pow_add, Nat.mul_comm]
      _ ≤ 2 ^ 21 := hp
  unfold appendBits
  rw [BitVec.toNat_or, BitVec.toNat_shiftLeft, BitVec.toNat_setWidth, Nat.shiftLeft_eq,
    Nat.mod_eq_of_lt (Nat.lt_of_lt_of_le hv hvn), Nat.mod_eq_of_lt hm, Nat.or_comm]
  have := Nat.two_pow_add_eq_or_of_lt ha v.toNat
  rw [Nat.mul_comm] at this
  omega

/-- The appended accumulator holds no bit above the new count. -/
theorem appendBits_lt {n : Nat} (a : Acc) (p : Pend) (v : BitVec n) (ha : a.toNat < 2 ^ p.toNat)
    (hn : p.toNat + n ≤ 21) : (appendBits a p v).toNat < 2 ^ (p.toNat + n) := by
  rw [appendBits_toNat a p v ha hn, Nat.pow_add]
  have hv := v.isLt
  have : (v.toNat + 1) * 2 ^ p.toNat ≤ 2 ^ n * 2 ^ p.toNat := Nat.mul_le_mul_right _ hv
  have h2 : 2 ^ p.toNat * 2 ^ n = 2 ^ n * 2 ^ p.toNat := Nat.mul_comm _ _
  rw [Nat.add_mul] at this
  omega

/-- The candidate of a word, as a number: the low 13 bits. -/
theorem candidate_toNat (a : Acc) : ((a.extractLsb' 0 13).setWidth 14 : PackedWord).toNat = a.toNat % 8192 := by
  rw [BitVec.toNat_setWidth, BitVec.extractLsb'_toNat, Nat.shiftRight_zero]
  omega

/-- The packed word of a full candidate (R123). -/
theorem packWord_full (a : Acc) (p : Pend) (h : 457 ≤ a.toNat % 8192) :
    (packWord a p).word.toNat = a.toNat % 8192 ∧ (packWord a p).acc.toNat = a.toNat / 8192 ∧
    (packWord a p).pend = p - 13#5 := by
  have hs : isShort ((a.extractLsb' 0 13).setWidth 14) = false := by
    simp only [isShort, candidate_toNat, Config.wordFull, decide_eq_false_iff_not]; omega
  simp only [packWord, hs, Bool.false_eq_true, if_false]
  refine ⟨candidate_toNat a, ?_, trivial⟩
  simp [BitVec.toNat_ushiftRight, Nat.shiftRight_eq_div_pow]

/-- The packed word of a short candidate: 14 bits (R123). -/
theorem packWord_short (a : Acc) (p : Pend) (h : a.toNat % 8192 < 457) :
    (packWord a p).word.toNat = a.toNat % 16384 ∧ (packWord a p).acc.toNat = a.toNat / 16384 ∧
    (packWord a p).pend = p - 13#5 - 1#5 := by
  have hs : isShort ((a.extractLsb' 0 13).setWidth 14) = true := by
    simp only [isShort, candidate_toNat, Config.wordFull, decide_eq_true_eq]; omega
  simp only [packWord, hs, if_true]
  refine ⟨?_, ?_, trivial⟩
  · have hb : (((a >>> 13).extractLsb' 0 1).setWidth 14 : PackedWord).toNat = a.toNat / 8192 % 2 := by
      rw [BitVec.toNat_setWidth, BitVec.extractLsb'_toNat, BitVec.toNat_ushiftRight]
      simp only [Nat.shiftRight_eq_div_pow]
      omega
    have hlt : a.toNat % 8192 < 2 ^ 13 := by omega
    have hor := Nat.two_pow_add_eq_or_of_lt hlt (a.toNat / 8192 % 2)
    rw [BitVec.toNat_or, BitVec.toNat_shiftLeft, hb, candidate_toNat, Nat.shiftLeft_eq,
      Nat.mod_eq_of_lt (by omega : a.toNat / 8192 % 2 * 2 ^ 13 < 2 ^ 14), Nat.or_comm]
    rw [Nat.mul_comm] at hor
    omega
  · rw [BitVec.toNat_ushiftRight, BitVec.toNat_ushiftRight]
    simp only [Nat.shiftRight_eq_div_pow]
    omega

/-- A packed word is at most `WORD_MAX` (R8, R123), whatever the accumulator holds. -/
theorem packWord_le (a : Acc) (p : Pend) : (packWord a p).word.toNat ≤ 8648 := by
  by_cases h : a.toNat % 8192 < 457
  · rw [(packWord_short a p h).1]; omega
  · rw [(packWord_full a p (by omega)).1]; omega

/-- The word of a symbol pair as a number: 14 bits hold it (R81). -/
theorem pairWord_toNat (lo hi : SymVal) (h : hi.toNat ≤ 92) :
    (pairWord lo hi).toNat = lo.toNat + 93 * hi.toNat := by
  have := lo.isLt
  simp only [pairWord, BitVec.toNat_add, BitVec.toNat_mul, BitVec.toNat_setWidth, BitVec.toNat_ofNat]
  omega

/-- No byte is due: nothing is released. -/
theorem releaseBytes_lt {f : Nat} {a : Acc} {p : Pend} (h : p.toNat < 8) :
    releaseBytes f a p = { bytes := [], acc := a, pend := p } := by
  cases f with
  | zero => rfl
  | succ f => simp [releaseBytes, byteDue, Nat.not_le.mpr h]

/-- A byte is due: the low byte goes out first. -/
theorem releaseBytes_ge {f : Nat} {a : Acc} {p : Pend} (h : 8 ≤ p.toNat) :
    releaseBytes (f + 1) a p =
      { bytes := a.extractLsb' 0 8 :: (releaseBytes f (a >>> 8) (p - 8#5)).bytes,
        acc := (releaseBytes f (a >>> 8) (p - 8#5)).acc,
        pend := (releaseBytes f (a >>> 8) (p - 8#5)).pend } := by
  simp [releaseBytes, byteDue, h]

/-- The counter after one byte. -/
theorem pend_sub_eight {p : Pend} (h : 8 ≤ p.toNat) : (p - 8#5).toNat = p.toNat - 8 := by
  rw [BitVec.toNat_sub_of_le (by simpa [BitVec.le_def] using h)]; rfl

/-- Releasing from 8 to 15 pending bits: one byte (R144). -/
theorem releaseBytes_one {a : Acc} {p : Pend} (h8 : 8 ≤ p.toNat) (h16 : p.toNat < 16) :
    releaseBytes 2 a p = { bytes := [a.extractLsb' 0 8], acc := a >>> 8, pend := p - 8#5 } := by
  have := pend_sub_eight h8
  rw [releaseBytes_ge h8, releaseBytes_lt (by omega)]

/-- Releasing from 16 to 23 pending bits: two bytes (R144). -/
theorem releaseBytes_two {a : Acc} {p : Pend} (h16 : 16 ≤ p.toNat) :
    releaseBytes 2 a p =
      { bytes := [a.extractLsb' 0 8, (a >>> 8).extractLsb' 0 8], acc := a >>> 8 >>> 8,
        pend := p - 8#5 - 8#5 } := by
  have := pend_sub_eight (p := p) (by omega)
  rw [releaseBytes_ge (by omega), releaseBytes_ge (by omega)]
  rfl

/-- At most two bytes are released (R144, R151). -/
theorem releaseBytes_length (a : Acc) (p : Pend) : (releaseBytes 2 a p).bytes.length ≤ 2 := by
  have key : ∀ f a p, (releaseBytes f a p).bytes.length ≤ f := by
    intro f
    induction f with
    | zero => intro a p; simp [releaseBytes]
    | succ f ih =>
      intro a p
      by_cases h : 8 ≤ p.toNat
      · rw [releaseBytes_ge h]; simpa using ih _ _
      · rw [releaseBytes_lt (by omega)]; simp
  exact key 2 a p

/-! ## Answers -/

/-- Responding with symbols answers a next state exactly when the table reads have entries. -/
theorem respondSymbols_eq_next {out : Option (List Byte)} {s t : State} :
    respondSymbols out s = .next t ↔ ∃ bytes, out = some bytes ∧ t = s.respond .ok bytes := by
  cases out <;> simp [respondSymbols, eq_comm]

/-- Responding with symbols is never refused. -/
theorem respondSymbols_ne_refused {out : Option (List Byte)} {s : State} {r : Refusal} :
    respondSymbols out s ≠ .refused r := by
  cases out <;> simp [respondSymbols]

/-- Packing a word never faults: its two indices always hold entries (R124). -/
theorem packIfDue_eq (a : Acc) (p : Pend) (s : State) :
    ∃ out, packIfDue a p s = .next ((if wordDue p then s.setEncoder (packWord a p).acc (packWord a p).pend
      else s.setEncoder a p).respond .ok out) := by
  unfold packIfDue
  split
  · obtain ⟨lo, hi, -, -, h⟩ := symbolPair_of_le (packWord_le a p)
    exact ⟨[lo, hi], by simp [h, respondSymbols]⟩
  · exact ⟨[], rfl⟩

end Sys2Proof.Machine
end

