-- ==== Sys2Proof/Laws/Port.lean ====
section
/-! SUPPORT. What one rising edge and one transaction do, said once per case. -/

namespace Sys2Proof.Machine

/-- The host drives nothing past the end of its inputs. -/
theorem State.sample_of_nil {s : State} (h : s.pins = []) : s.sample = { } := by
  simp [State.sample, h]

/-- The next inputs are the first sample. -/
theorem State.sample_of_cons {s : State} {p : PinSample} {ps : List PinSample} (h : s.pins = p :: ps) :
    s.sample = p := by
  simp [State.sample, h]

/-- The block is ready exactly when nothing is in flight and reset is not applied (R71, R200). -/
theorem State.cmdReady_iff {rst : Bool} {s : State} :
    s.cmdReady rst = true ↔ rst = false ∧ s.handshake = .ready := by
  simp [State.cmdReady]

/-- A response is presented exactly when its command was accepted at least `CMD_LATENCY` cycles ago. -/
theorem State.rspPresented_iff {s : State} {r : Rsp} :
    s.rspPresented false = some r ↔ ∃ n, s.handshake = .inFlight n r ∧ Config.cmdLatency ≤ n := by
  unfold State.rspPresented
  split <;> simp_all [and_comm]

/-- An edge with reset. -/
theorem clockEdge_rst {p : PinSample} {s : State} (h : p.rst = true) :
    clockEdge p s = .next s.applyReset := by
  simp [clockEdge, h]

/-- An edge at which the idle block is presented nothing. -/
theorem clockEdge_idle {p : PinSample} {s : State} (hr : p.rst = false) (hs : s.handshake = .ready)
    (hv : p.cmdValid = false) : clockEdge p s = .next s := by
  simp [clockEdge, hr, hv, State.cmdReady, hs]

/-- An edge that accepts a command. -/
theorem clockEdge_accept {p : PinSample} {s : State} (hr : p.rst = false) (hs : s.handshake = .ready)
    (hv : p.cmdValid = true) : clockEdge p s = acceptWord p.cmdWord s := by
  simp [clockEdge, hr, hv, State.cmdReady, hs]

/-- An edge with a command in flight. -/
theorem clockEdge_inFlight {p : PinSample} {s : State} {n : Nat} {r : Rsp} (hr : p.rst = false)
    (hs : s.handshake = .inFlight n r) : clockEdge p s = .next (flightEdge p s) := by
  simp [clockEdge, hr, State.cmdReady, hs]

/-- Before `CMD_LATENCY` cycles have passed, an edge counts one (R71 point 3). -/
theorem flightEdge_wait {p : PinSample} {s : State} {n : Nat} {r : Rsp} (hs : s.handshake = .inFlight n r)
    (hn : n < Config.cmdLatency) :
    flightEdge p s = { s.noteOffer p with handshake := .inFlight (n + 1) r } := by
  have hv : s.rspValid false = false := by
    simp [State.rspValid, State.rspPresented, hs, Nat.not_le.mpr hn]
  rw [flightEdge, hv]
  exact State.countCycle_inFlight _ (by simp [hs])

/-- A presented response the host is not ready for stays (R71 point 3). -/
theorem flightEdge_hold {p : PinSample} {s : State} {n : Nat} {r : Rsp} (hs : s.handshake = .inFlight n r)
    (hn : Config.cmdLatency ≤ n) (hp : p.rspReady = false) : flightEdge p s = s.noteOffer p := by
  simp [flightEdge, State.rspValid, State.rspPresented, hs, hn, hp]

/-- A presented response the host is ready for is taken (R71 point 4). -/
theorem flightEdge_take {p : PinSample} {s : State} {n : Nat} {r : Rsp} (hs : s.handshake = .inFlight n r)
    (hn : Config.cmdLatency ≤ n) (hp : p.rspReady = true) :
    flightEdge p s = { s.noteOffer p with handshake := .ready, taken := s.taken ++ [r] } := by
  have : flightEdge p s = (s.noteOffer p).takeRsp := by
    simp [flightEdge, State.rspValid, State.rspPresented, hs, hn, hp]
  rw [this, State.takeRsp_inFlight (s.noteOffer p) (n := n) (r := r) (by simp [hs])]
  simp

/-- A word the host held stable is the one that runs (R71 point 1). -/
theorem acceptWord_stable {w : Cmd} {s : State} (hr : s.hadReset = true) (ho : s.heldStable w = true) :
    acceptWord w s = runWord w s.clearOffers := by
  simp [acceptWord, hr, ho]

/-- A word the host changed before acceptance leaves the choice among those presented free (R212). -/
theorem acceptWord_unstable {w : Cmd} {s : State} (hr : s.hadReset = true) (ho : s.heldStable w = false) :
    acceptWord w s = runWord (s.freeWord w) s.clearOffers.countChoice := by
  simp [acceptWord, hr, ho]

/-- The free choice is a word the host presented. -/
theorem State.freeWord_mem (w : Cmd) (s : State) : s.freeWord w ∈ s.offered ++ [w] := by
  unfold State.freeWord
  have hlt : Config.freeWordChoice s.freeCount % (s.offered.length + 1) < (s.offered ++ [w]).length := by
    simpa using Nat.mod_lt _ (Nat.succ_pos s.offered.length)
  rw [List.getElem?_eq_getElem hlt]
  exact List.getElem_mem hlt

/-- Running a word that decodes. -/
theorem runWord_ok {w : Cmd} {i : Instr} (h : decode w = .ok i) (s : State) : runWord w s = exec i s := by
  simp [runWord, h]

/-- Running a reserved word (R173). -/
theorem runWord_error {w : Cmd} {e : Illegal} (h : decode w = .error e) (s : State) :
    runWord w s = .next (s.respond .illegalCmd []) := by
  simp [runWord, h, raise]

/-- A transaction whose word answers a next state takes its response. -/
theorem transact_next {w : Cmd} {s t : State} (h : runWord w s = .next t) :
    transact w s = .next t.takeRsp := by
  simp [transact, h]

/-- A run of no words. -/
@[simp] theorem runWords_nil (s : State) : runWords [] s = .next s := rfl

/-- A run goes on after its first transaction. -/
theorem runWords_cons {w : Cmd} {ws : List Cmd} {s t : State} (h : transact w s = .next t) :
    runWords (w :: ws) s = runWords ws t := by
  simp [runWords, h]

/-- A run of two lists of words is the one after the other (R63). -/
theorem runWords_append {ws vs : List Cmd} {s t : State} (h : runWords ws s = .next t) :
    runWords (ws ++ vs) s = runWords vs t := by
  induction ws generalizing s with
  | nil => cases h; rfl
  | cons w ws ih =>
    rw [List.cons_append]
    rw [runWords] at h ⊢
    split at h
    · rename_i u hu
      simpa only [hu] using ih h
    · cases h
    · cases h

/-! ## A step, case by case -/

/-- What the host presented and not had accepted is unchanged by sampling its inputs. -/
@[simp] theorem State.heldStable_dropPins (w : Cmd) (s : State) :
    s.dropPins.heldStable w = s.heldStable w := rfl

/-- A step is one edge with the next inputs of the host. -/
theorem step_eq (s : State) : step s = clockEdge s.sample s.dropPins := rfl

/-- A step with reset applied (R200). -/
theorem step_rst {s : State} (h : s.sample.rst = true) : step s = .next s.dropPins.applyReset :=
  clockEdge_rst h

/-- A step of the idle block (R185). -/
theorem step_idle {s : State} (hr : s.sample.rst = false) (hs : s.handshake = .ready)
    (hv : s.sample.cmdValid = false) : step s = .next s.dropPins :=
  clockEdge_idle (s := s.dropPins) hr hs hv

/-- A step that accepts a command (R71 point 1). -/
theorem step_accept {s : State} (hr : s.sample.rst = false) (hs : s.handshake = .ready)
    (hv : s.sample.cmdValid = true) : step s = acceptWord s.sample.cmdWord s.dropPins :=
  clockEdge_accept (s := s.dropPins) hr hs hv

/-- A step with a command in flight (R71 points 2 to 4). -/
theorem step_inFlight {s : State} {n : Nat} {r : Rsp} (hr : s.sample.rst = false)
    (hs : s.handshake = .inFlight n r) : step s = .next (flightEdge s.sample s.dropPins) :=
  clockEdge_inFlight (s := s.dropPins) hr hs

/-- A run of edges goes on after its first step. -/
theorem runEdges_succ {k : Nat} {s t : State} (h : step s = .next t) :
    runEdges (k + 1) s = runEdges k t := by
  simp [runEdges, h]

/-- A run of edges is the one after the other. -/
theorem runEdges_add {j k : Nat} {s t : State} (h : runEdges j s = .next t) :
    runEdges (j + k) s = runEdges k t := by
  induction j generalizing s with
  | zero => cases h; rw [Nat.zero_add]
  | succ j ih =>
    rw [Nat.add_right_comm]
    rw [runEdges] at h ⊢
    split at h
    · rename_i u hu
      simpa only [hu] using ih h
    · cases h
    · cases h

/-- The edge set up by `presenting` runs the word presented. -/
theorem step_presenting (w : Cmd) (s : State) :
    step (s.presenting w) = runWord w { s.takeRsp with hadReset := true, offered := [] } := by
  have hs : (s.presenting w).sample = { cmdValid := true, cmdWord := w } :=
    State.sample_of_cons (State.presenting_pins w s)
  rw [step_accept (by rw [hs]) (State.presenting_handshake w s) (by rw [hs]), hs,
    acceptWord_stable rfl rfl]
  congr 1
  simp [State.presenting, State.dropPins, State.clearOffers]

end Sys2Proof.Machine
end

