-- ==== Sys2Proof/Laws/Exec.lean ====
section
/-! SUPPORT. What the effect of a command can be, said once: a next state always has a response in flight
that `State.respond` made, with at most two bytes, and with none unless the status is OK. -/

namespace Sys2Proof.Machine

/-- A pair of symbols is two bytes (R54). -/
theorem symbolPair_length {n : Nat} {out : List Byte} (h : symbolPair n = some out) : out.length = 2 := by
  unfold symbolPair at h
  split at h
  · cases h; rfl
  · cases h

/-- A flush emits at most two symbols (R126). -/
theorem flushSymbols_length {a : Acc} {p : Pend} {out : List Byte} (h : flushSymbols a p = some out) :
    out.length ≤ 2 := by
  unfold flushSymbols at h
  split at h
  · cases h; simp
  · split at h
    · exact (symbolPair_length h).le
    · unfold loneSymbol at h
      split at h
      · cases h; simp
      · cases h

/-- Inversion of `exec`: a next state is some state with a response put in flight, of at most two bytes, and
of none unless the status is OK (R78, R171 to R174). -/
theorem exec_eq_next {i : Instr} {s t : State} (h : exec i s = .next t) :
    ∃ st out u, t = State.respond st out u ∧ out.length ≤ 2 ∧ (st ≠ .ok → out = []) := by
  cases i <;> simp only [exec] at h
  · unfold execEncWrite packIfDue at h
    split at h
    · obtain ⟨bytes, hb, rfl⟩ := respondSymbols_eq_next.1 h
      exact ⟨.ok, bytes, _, rfl, (symbolPair_length hb).le, by simp⟩
    · cases h; exact ⟨.ok, [], _, rfl, by simp, by simp⟩
  · obtain ⟨bytes, hb, rfl⟩ := respondSymbols_eq_next.1 h
    exact ⟨.ok, bytes, _, rfl, flushSymbols_length hb, by simp⟩
  · cases h; exact ⟨.ok, [], _, rfl, by simp, by simp⟩
  · unfold execDecWrite raise decMember decHigh at h
    repeat' split at h
    all_goals cases h
    · exact ⟨_, [], _, rfl, by simp, by simp⟩
    · exact ⟨_, [], _, rfl, by simp, by simp⟩
    · exact ⟨_, _, _, rfl, releaseBytes_length _ _, by simp⟩
    · exact ⟨_, [], _, rfl, by simp, by simp⟩
  · unfold execDecFlush raise at h
    split at h <;> cases h
    · exact ⟨_, [], _, rfl, by simp, by simp⟩
    · exact ⟨_, _, _, rfl, by unfold flushBytes; split <;> simp, by simp⟩
  · cases h; exact ⟨.ok, [], _, rfl, by simp, by simp⟩
  · unfold execLutEnc raise at h
    split at h <;> cases h
    · exact ⟨_, _, _, rfl, by simp, by simp⟩
    · exact ⟨_, [], _, rfl, by simp, by simp⟩
  · unfold execLutDec raise at h
    split at h <;> cases h
    · exact ⟨_, _, _, rfl, by simp, by simp⟩
    · exact ⟨_, [], _, rfl, by simp, by simp⟩

/-- Inversion of `runWord`: the same of every command word, legal or not. -/
theorem runWord_eq_next {w : Cmd} {s t : State} (h : runWord w s = .next t) :
    ∃ st out u, t = State.respond st out u ∧ out.length ≤ 2 ∧ (st ≠ .ok → out = []) := by
  unfold runWord at h
  split at h
  · exact exec_eq_next h
  · cases h; exact ⟨_, [], _, rfl, by simp, by simp⟩

/-- A command word that runs leaves its response in flight, accepted one cycle ago. -/
theorem runWord_inFlight {w : Cmd} {s t : State} (h : runWord w s = .next t) :
    ∃ r, t.handshake = .inFlight 1 r := by
  obtain ⟨st, out, u, rfl, -, -⟩ := runWord_eq_next h
  exact ⟨_, rfl⟩

end Sys2Proof.Machine
end

