-- ==== Sys2Proof/Laws/PerInstr.lean ====
section
/-! SUPPORT. Facts about every command as syntax, one lemma per constructor.
Family `Legal`: the word of a command passes both checks of a legal command word (30_encoding.md R76). -/

namespace Sys2Proof.Laws.Legal

/-- The encoded word is a legal command word. -/
def Statement (i : Instr) : Prop := wordLegal (encode i) = true

/-- The checks of R76 on the two fields of a word. -/
theorem wordLegal_append (o d : Byte) : wordLegal (o ++ d) = (opcodeKnown o && dataZeroIfUnused o d) := by
  show (opcodeKnown (opcOf (o ++ d)) && dataZeroIfUnused (opcOf (o ++ d)) (dataOf (o ++ d))) = _
  simp

theorem encWrite (b : Byte) : Statement (.encWrite b) :=
  (wordLegal_append _ _).trans (by simp [opcodeOf, opcodeKnown, dataZeroIfUnused, operandOpcodes, bareOpcodes])
theorem encFlush : Statement .encFlush := rfl
theorem encClear : Statement .encClear := rfl
theorem decWrite (c : Byte) : Statement (.decWrite c) :=
  (wordLegal_append _ _).trans (by simp [opcodeOf, opcodeKnown, dataZeroIfUnused, operandOpcodes, bareOpcodes])
theorem decFlush : Statement .decFlush := rfl
theorem decClear : Statement .decClear := rfl
theorem lutEnc (k : Byte) : Statement (.lutEnc k) :=
  (wordLegal_append _ _).trans (by simp [opcodeOf, opcodeKnown, dataZeroIfUnused, operandOpcodes, bareOpcodes])
theorem lutDec (c : Byte) : Statement (.lutDec c) :=
  (wordLegal_append _ _).trans (by simp [opcodeOf, opcodeKnown, dataZeroIfUnused, operandOpcodes, bareOpcodes])

end Sys2Proof.Laws.Legal
end

