-- ==== Sys2Proof/Tests/Slice0.lean ====
section
/-! SUPPORT. Small tests with results taken from the spec's own tables and vectors (95_test_vectors.md, and
the encodings of spec/opcode_table.json), and for each statement with hypotheses a witness that meets
them. -/

namespace Sys2Proof.Tests

open Sys2Proof.Machine

/-! ## Helpers -/

/-- The reset state with the encoder's registers set. -/
def encState (a p : Nat) : State :=
  { State.reset with encAcc := BitVec.ofNat 21 a, encPend := BitVec.ofNat 5 p }

/-- The reset state with the decoder's registers set. -/
def decState (pwv : Bool) (pw a p : Nat) (err : Bool) : State :=
  { State.reset with
    decPwv := pwv, decPw := BitVec.ofNat 7 pw, decAcc := BitVec.ofNat 21 a, decPend := BitVec.ofNat 5 p,
    decErr := err }

/-- The reset state with a response in flight. -/
def busy (n : Nat) : State := { State.reset with handshake := .inFlight n 0x010020#21 }

/-- Whether an answer is the state `t` with the response `r` in flight. -/
def answerIs (a : Answer) (r : Rsp) (t : State) : Bool :=
  match a with
  | .next u => u == { t with handshake := .inFlight 1 r }
  | .fault _ => false
  | .refused _ => false

/-- Whether an answer is a next state. -/
def goesOn (a : Answer) : Bool :=
  match a with
  | .next _ => true
  | .fault _ => false
  | .refused _ => false

/-! ## Ill-formed terms are refused -/

theorem test_reserved_opcode_refused : opcodeKnown 0x04#8 = false ∧ wordLegal 0x0400#16 = false := by decide
theorem test_nonzero_data_refused : dataZeroIfUnused 0x02#8 0x01#8 = false ∧ wordLegal 0x0201#16 = false := by decide
theorem test_operand_too_wide_refused : (Operand.hex 256).wellFormed = false ∧ (Operand.dec 256).wellFormed = false := by decide
theorem test_quote_and_backslash_literals_refused :
    (Operand.chr (Char.ofNat 0x27)).wellFormed = false ∧ (Operand.chr (Char.ofNat 0x5C)).wellFormed = false := by decide
theorem test_unprintable_literal_refused : (Operand.chr (Char.ofNat 0x7F)).wellFormed = false := by decide
theorem test_quote_in_string_refused : (AsmLine.decStr [Char.ofNat 0x22]).expand = none := by decide
theorem test_well_formed_constructors :
    [Instr.encWrite 0, .encFlush, .encClear, .decWrite 0, .decFlush, .decClear, .lutEnc 0, .lutDec 0].all
      Instr.wellFormed = true := by decide

/-! ## Decoding, bit by bit from spec/opcode_table.json -/

theorem test_decode_encWrite : decode 0b0000000110100101#16 = .ok (.encWrite 0b10100101#8) := by decide
theorem test_decode_encFlush : decode 0b0000001000000000#16 = .ok .encFlush := by decide
theorem test_decode_encClear : decode 0b0000001100000000#16 = .ok .encClear := by decide
theorem test_decode_decWrite : decode 0b0001000101111010#16 = .ok (.decWrite 0b01111010#8) := by decide
theorem test_decode_decFlush : decode 0b0001001000000000#16 = .ok .decFlush := by decide
theorem test_decode_decClear : decode 0b0001001100000000#16 = .ok .decClear := by decide
theorem test_decode_lutEnc : decode 0b0010000111000011#16 = .ok (.lutEnc 0b11000011#8) := by decide
theorem test_decode_lutDec : decode 0b0010001000111100#16 = .ok (.lutDec 0b00111100#8) := by decide
theorem test_decodeTableWord : decodeTableWord 16 0x2145 = some (.lutEnc 69#8) ∧ decodeTableWord 16 0x0201 = none := by decide

/-! ## Commands: V-E3, V-E5, V-F6, V-F9, V-F12, V-D8, V-D12, V-G5, V-G7, V-G8, V-A8, V-A9, V-A16, V-A18 -/

theorem test_encWrite_full : answerIs (exec (.encWrite 0xFF#8) (encState 0xFF 8)) 0x027A28#21 (encState 7 3) = true := by decide
theorem test_encWrite_short : answerIs (exec (.encWrite 0x21#8) (encState 0xC8 8)) 0x027E7E#21 (encState 0 2) = true := by decide
theorem test_encFlush_pair : answerIs (exec .encFlush (encState 0x5D 7)) 0x022120#21 (encState 0 0) = true := by decide
theorem test_encFlush_nine_zero_bits : answerIs (exec .encFlush (encState 0 9)) 0x022020#21 (encState 0 0) = true := by decide
theorem test_encClear : answerIs (exec .encClear (encState 0xFF 8)) 0x000000#21 (encState 0 0) = true := by decide
theorem test_decWrite_high :
    answerIs (exec (.decWrite 0x7E#8) (decState true 92 0x7F 7 false)) 0x02E47F#21 (decState false 0 0x10 5 false) = true := by decide
theorem test_decWrite_invalid_high :
    answerIs (exec (.decWrite 0x5C#8) (decState true 7 0x1F 5 false)) 0x040000#21 (decState true 7 0x1F 5 true) = true := by decide
theorem test_decFlush_truncates :
    answerIs (exec .decFlush (decState true 92 0x7F 7 false)) 0x01007F#21 (decState false 0 0 0 false) = true := by decide
theorem test_decFlush_halted :
    answerIs (exec .decFlush (decState true 7 0x1F 5 true)) 0x080000#21 (decState true 7 0x1F 5 true) = true := by decide
theorem test_decClear_halted :
    answerIs (exec .decClear (decState true 7 0x1F 5 true)) 0x000000#21 (decState false 0 0 0 false) = true := by decide
theorem test_lutEnc_last : answerIs (exec (.lutEnc 92#8) (decState true 7 0x1F 5 true)) 0x01007E#21 (decState true 7 0x1F 5 true) = true := by decide
theorem test_lutEnc_range : answerIs (exec (.lutEnc 93#8) State.reset) 0x100000#21 State.reset = true := by decide
theorem test_lutDec_last : answerIs (exec (.lutDec 0x7E#8) State.reset) 0x01005C#21 State.reset = true := by decide
theorem test_lutDec_backslash : answerIs (exec (.lutDec 0x5C#8) State.reset) 0x040000#21 State.reset = true := by decide

/-! ## Illegal words, the ports, the assembler: V-C11, V-S1, V-S6, P5, R82, R83 -/

theorem test_illegal_beats_halted :
    answerIs (runWord 0x1201#16 (decState false 0 0 0 true)) 0x0C0000#21 (decState false 0 0 0 true) = true := by decide
theorem test_step_runs_presented_word :
    answerIs (step (State.reset.withFetchWord 16 0x2145)) 0x010067#21 State.reset = true := by decide
theorem test_step_from_reset_idles : goesOn (step State.reset) = true := by decide
theorem test_encode_zero_byte : oneShotEncode [] [0x00#8] State.reset = some [0x20#8] := by decide
theorem test_decode_quote_fails : oneShotDecode [] [0x22#8] State.reset = none := by decide
theorem test_assemble_comment : assemble "LUT.DEC ';' ; a comment".toList = some [0x223B#16] := by decide
theorem test_assemble_encode : assemble "ENCODE 0xFF, 255".toList = some [0x0300#16, 0x01FF#16, 0x01FF#16, 0x0200#16] := by decide
theorem test_assemble_flush_operand_refused : assemble "ENC.FLUSH 0".toList = none := by decide
theorem test_listing : listing (.encWrite 0xFF#8) = "0x01FF  ENC.WRITE 0xFF" := by decide

/-! ## Witnesses: concrete states and operands that meet the hypotheses of each statement -/

theorem witness_EncLutClosedForm : (1 < 93 ∧ 2 < 93 ∧ 58 < 93 ∧ 59 < 93 ∧ 92 < 93) ∧ 93 ≤ 93 := by decide
theorem witness_TablesAreInverse : ∀ i, encLut i ≠ some 0x22#8 := by
  intro i h
  have hm : 0x22#8 ∈ alphabet := List.mem_of_getElem? h
  simp [alphabet, encRows0, encRows1, encRows2] at hm
theorem witness_ExampleWordsDecode : State.reset.decErr = false := by decide
theorem witness_DecodeFollowsOpcodeMap :
    (0x13#8 ∈ bareOpcodes ∧ (0x01#8 : Byte) ≠ 0#8) ∧ (0x23#8 ∉ bareOpcodes ∧ 0x23#8 ∉ operandOpcodes) := by decide
theorem witness_DecodeInvertsEncode : decode 0x01FF#16 = .ok (.encWrite 0xFF#8) ∧ wordLegal 0x01FF#16 = true := by decide
theorem witness_OperandFormsAssemble :
    255 < 256 ∧ 256 ≤ 256 ∧ (0x20 ≤ 'z'.toNat ∧ 'z'.toNat ≤ 0x7E ∧ 'z'.toNat ≠ 0x27 ∧ 'z'.toNat ≠ 0x5C) ∧
    (Char.ofNat 0x7F).toNat > 0x7E ∧ (Char.ofNat 0x1F).toNat < 0x20 := by decide
theorem witness_PseudoInstructionsExpand :
    [Operand.hex 255, Operand.chr 'a'].map Operand.value = [0xFF#8, 0x61#8].map some ∧
    (∀ c ∈ ['(', 'z', '('], isPrintable c = true ∧ c.toNat ≠ 0x22 ∧ c.toNat ≠ 0x5C) ∧
    (∃ c ∈ ['a', Char.ofNat 0x22], c.toNat = 0x22 ∨ c.toNat = 0x5C) :=
  ⟨by decide, by simp [isPrintable], Char.ofNat 0x22, by simp, by decide⟩
theorem witness_ResponseWordLayout : [0x28#8, 0x7A#8].length ≤ 2 := by decide
theorem witness_EveryResponseIsWellFormed : ∃ t, runWord 0x1120#16 State.reset = .next t := ⟨_, rfl⟩
theorem witness_StatusFollowsPriority : ∃ t, runWord 0x1201#16 (decState false 0 0 0 true) = .next t := ⟨_, rfl⟩
theorem witness_IllegalWordChangesNothing :
    (0x00#8 ∉ bareOpcodes ∧ 0x00#8 ∉ operandOpcodes) ∧ (0x02#8 ∈ bareOpcodes ∧ (0xFF#8 : Byte) ≠ 0#8) := by decide
theorem witness_NonOkWritesNothing :
    (∃ t r, exec (.decWrite 0x22#8) State.reset = .next t ∧ responseOf (.next t) = some r ∧ rspStatus r ≠ Status.ok.code) ∧
    (∃ t r, exec (.lutEnc 93#8) State.reset = .next t ∧ responseOf (.next t) = some r ∧ rspStatus r ≠ Status.ok.code) :=
  ⟨⟨_, _, rfl, rfl, by decide⟩, ⟨_, _, rfl, rfl, by decide⟩⟩
theorem witness_CommandsWriteOnlyTheirUnit :
    (∃ t, exec (.encWrite 0xFF#8) (encState 0xFF 8) = .next t) ∧ isDec (.encWrite 0xFF#8) = false ∧
    (∃ t, exec .decFlush (decState true 7 0x1F 5 false) = .next t) ∧ isEnc .decFlush = false :=
  ⟨⟨_, rfl⟩, rfl, ⟨_, rfl⟩, rfl⟩
theorem witness_CommandsReadOnlyTheirUnit :
    (∃ t t', exec .encFlush (encState 0x5D 7) = .next t ∧
      exec .encFlush { encState 0x5D 7 with decErr := true, decPend := 3#5 } = .next t') ∧
    SameEnc (encState 0x5D 7) { encState 0x5D 7 with decErr := true, decPend := 3#5 } ∧
    (∃ t t', exec (.decWrite 0x20#8) (decState true 7 0 0 false) = .next t ∧
      exec (.decWrite 0x20#8) { decState true 7 0 0 false with encPend := 3#5 } = .next t') ∧
    SameDec (decState true 7 0 0 false) { decState true 7 0 0 false with encPend := 3#5 } :=
  ⟨⟨_, _, rfl, rfl⟩, ⟨rfl, rfl⟩, ⟨_, _, rfl, rfl⟩, ⟨rfl, rfl, rfl, rfl, rfl⟩⟩

/-- R121's three cases at their boundaries: 13 bits stay pending; 14 bits with a full word; the candidates
457 and 456. -/
theorem witness_EncWriteResult :
    (EncInv (encState 0x1F 5) ∧ 5 + 8 ≤ 13) ∧
    (EncInv (encState 0x3F 6) ∧ 13 < 6 + 8 ∧ 457 ≤ (0x3F + 0xFF * 2 ^ 6) % 8192) ∧
    (EncInv (encState 0xC9 8) ∧ 13 < 8 + 8 ∧ (0xC9 + 0x01 * 2 ^ 8) % 8192 = 457) ∧
    (EncInv (encState 0xC8 8) ∧ 13 < 8 + 8 ∧ (0xC8 + 0x21 * 2 ^ 8) % 8192 = 456) ∧
    (EncInv (encState 0x1FFF 13) ∧ 13 + 8 = 21) := by decide

theorem witness_PackedWordClasses :
    ((BitVec.ofNat 21 0x21C8 : Acc).toNat % 8192 = 456 ∧ (BitVec.ofNat 21 0x21C8 : Acc).toNat / 8192 % 2 = 1) ∧
    ((BitVec.ofNat 21 0x01C8 : Acc).toNat % 8192 < 457 ∧ (BitVec.ofNat 21 0x01C8 : Acc).toNat / 8192 % 2 = 0) ∧
    457 ≤ (BitVec.ofNat 21 0x01C9 : Acc).toNat % 8192 := by decide

/-- R126's four cases at their boundaries. -/
theorem witness_EncFlushResult :
    (EncInv (encState 0 0)) ∧ (EncInv (encState 0 1) ∧ EncInv (encState 92 8)) ∧
    (EncInv (encState 93 7) ∧ EncInv (encState 255 8)) ∧ (EncInv (encState 0 9) ∧ EncInv (encState 8191 13)) := by
  decide
theorem witness_EncClearResult : (0x01#8 : Byte) ≠ 0#8 := by decide
theorem witness_EncoderNeverFails :
    (isEnc (.encWrite 0#8) = true ∧ isEnc .encFlush = true ∧ isEnc .encClear = true ∧ EncInv (encState 0x1FFF 13)) ∧
    (0xFF#8 : Byte) ≠ 0#8 := by decide
theorem witness_EncoderOutputCounts : EncInv (encState 0x1F 5) ∧ EncInv (encState 0x3F 6) := by decide
theorem witness_EncoderOutputIsInAlphabet :
    responseOf (exec (.encWrite 0xFF#8) (encState 0xFF 8)) = some 0x027A28#21 ∧ rspOutput 0x027A28#21 = [0x28#8, 0x7A#8] := by
  decide
theorem witness_EncoderInvariantKept :
    EncInv (encState 0x1FFF 13) ∧ ∃ t, exec (.encWrite 0xFF#8) (encState 0x1FFF 13) = .next t :=
  ⟨by decide, _, rfl⟩
theorem witness_EncodingDependsOnEncoderOnly :
    EncInv (encState 0xFF 8) ∧ SameEnc (encState 0xFF 8) { encState 0xFF 8 with decErr := true } :=
  ⟨by decide, rfl, rfl⟩

/-- R141's cases: halted; a non-member; a low symbol; a high symbol that brings 13, 15, 16 and 21 bits. -/
theorem witness_DecWriteResult :
    (decState true 7 0x1F 5 true).decErr = true ∧
    ((decState true 7 0x1F 5 false).decErr = false ∧ decLut 0x22#8 = none) ∧
    ((decState false 0 0x1F 5 false).decPwv = false ∧ decLut 0x20#8 = some 0#7) ∧
    ((decState true 92 0x7F 7 false).decPwv = true ∧ DecInv (decState true 92 0x7F 7 false) ∧
      decLut 0x7E#8 = some 92#7 ∧ (92 + 93 * 92) % 8192 < 457) ∧
    (DecInv (decState true 7 0 0 false) ∧ decLut 0x7A#8 = some 88#7 ∧ 457 ≤ (7 + 93 * 88) % 8192) ∧
    (DecInv (decState true 7 3 2 false) ∧ 2 + 13 < 16) ∧ (DecInv (decState true 7 3 3 false) ∧ 16 ≤ 3 + 13) := by
  decide
theorem witness_WidthRuleAgreesWithEncoder :
    ((92#7 : SymVal).toNat ≤ 92) ∧ ((8648#14 : PackedWord).toNat ≤ 8648) ∧
    (13 < (14#5 : Pend).toNat ∧ (21#5 : Pend).toNat ≤ 21 ∧ (BitVec.ofNat 21 0x3FFF : Acc).toNat < 2 ^ 14) := by decide
theorem witness_DecFlushResult :
    (decState true 7 0x1F 5 true).decErr = true ∧
    ((decState false 0 0x1F 5 false).decErr = false ∧ (decState false 0 0x1F 5 false).decPwv = false) ∧
    ((decState true 92 0x7F 7 false).decErr = false ∧ (decState true 92 0x7F 7 false).decPwv = true ∧
      DecInv (decState true 92 0x7F 7 false)) := by decide
theorem witness_DecClearResult : (0x80#8 : Byte) ≠ 0#8 := by decide
theorem witness_DecoderOutputCounts :
    DecInv (decState true 92 0x7F 7 false) ∧ DecInv (decState true 7 0x1F 5 true) ∧ decLut 0x7E#8 ≠ none := by decide
theorem witness_DecoderInvariantKept :
    DecInv (decState true 92 0x7F 7 false) ∧ (92#7 : SymVal).toNat ≤ 92 ∧
    ∃ t, exec (.decWrite 0x7E#8) (decState true 92 0x7F 7 false) = .next t :=
  ⟨by decide, by decide, _, rfl⟩
theorem witness_HaltedUntilCleared :
    (decState true 7 0x1F 5 true).decErr = true ∧
    ∀ i ∈ [Instr.decWrite 0x20#8, .decFlush], i = .decFlush ∨ ∃ c, i = Instr.decWrite c :=
  ⟨rfl, fun i hi => by
    rcases List.mem_pair.1 hi with rfl | rfl
    · exact .inr ⟨_, rfl⟩
    · exact .inl rfl⟩
theorem witness_AlphabetOnlyInputDecodes : ∀ c ∈ [0x28#8, 0x7A#8, 0x28#8], decLut c ≠ none := by decide
theorem witness_NonMemberFailsDecodeSession : ∃ c ∈ [0x28#8, 0x22#8], decLut c = none := ⟨0x22#8, by simp, by decide⟩
theorem witness_FlushedSessionLeavesUnitFresh :
    EncInv (encState 0xFF 8) ∧ (decState true 7 0x1F 5 false).decErr = false ∧
    ∀ c ∈ [0x28#8, 0x7A#8], decLut c ≠ none := by decide
theorem witness_LutEncResult : (92#8 : Byte).toNat < 93 ∧ 93 ≤ (93#8 : Byte).toNat ∧ 93 ≤ (255#8 : Byte).toNat := by decide
theorem witness_LutDecResult : decLut 0x7E#8 = some 92#7 ∧ decLut 0x5C#8 = none := by decide
theorem witness_LookupsAndClearsAreIdempotent : ∃ k, Instr.lutEnc 0#8 = .lutEnc k := ⟨_, rfl⟩

theorem witness_ResetEdge : ({ busy 1 with pins := [{ rst := true, cmdValid := true }] } : State).sample.rst = true := by decide
theorem witness_StepRunsDecodedCommand :
    let s := State.reset.presenting 0x2145#16
    let u := State.reset.presenting 0x0201#16
    (s.hadReset = true ∧ s.handshake = .ready ∧ s.sample.rst = false ∧ s.sample.cmdValid = true ∧
      s.heldStable s.sample.cmdWord = true ∧ decode s.sample.cmdWord = .ok (.lutEnc 69#8)) ∧
    (u.heldStable u.sample.cmdWord = true ∧ decode u.sample.cmdWord = .error (.nonzeroData 0x02#8 0x01#8)) ∧
    decode (BitVec.ofNat 16 0x2145) = .ok (.lutEnc 69#8) := by decide
theorem witness_ChangedWordRunsOneOffered :
    let s : State := { State.reset with offered := [0x0200#16], pins := [{ cmdValid := true, cmdWord := 0x0300#16 }] }
    s.hadReset = true ∧ s.handshake = .ready ∧ s.sample.rst = false ∧ s.sample.cmdValid = true ∧
      s.heldStable s.sample.cmdWord = false := by decide
theorem witness_CommandWaitsWhileInFlight :
    let s : State := { busy 1 with pins := [{ cmdValid := true, cmdWord := 0x0300#16 }] }
    s.handshake = .inFlight 1 0x010020#21 ∧ s.sample.rst = false := by decide
theorem witness_ResponseAfterLatencyHeldUntilTaken :
    ((busy 1).handshake = .inFlight 1 0x010020#21 ∧ ([] : List PinSample).length < Config.cmdLatency) ∧
    ((busy Config.cmdLatency).rspPresented false = some 0x010020#21 ∧
      ∀ q ∈ [({ } : PinSample)], q.rst = false ∧ q.rspReady = false) :=
  ⟨⟨rfl, Nat.succ_pos _⟩, State.rspPresented_iff.2 ⟨_, rfl, Nat.le_refl _⟩, by decide⟩
theorem witness_IdleBlockHoldsState :
    State.reset.handshake = .ready ∧ ∀ p ∈ [({ rspReady := true } : PinSample), { }], p.rst = false ∧ p.cmdValid = false := by
  decide
theorem witness_PortsRefineTransactions :
    ∃ s : State, s.hadReset = true ∧ s.handshake = .ready ∧ s.offered = [] ∧
      s.pins = runPins [0x01FF#16, 0x0200#16] ++ [] :=
  ⟨{ State.reset with pins := runPins [0x01FF#16, 0x0200#16] }, rfl, rfl, rfl, by simp⟩
theorem witness_PowerUpNeedsReset :
    let s : State := { State.reset with hadReset := false, pins := [{ cmdValid := true }] }
    s.hadReset = false ∧ s.handshake = .ready ∧ s.sample.rst = false ∧ s.sample.cmdValid = true ∧
      ({ rst := true } : PinSample).rst = true := by decide

/-- A state other than reset that meets the invariant, with a response in flight and bits pending. -/
theorem witness_StepKeepsInvariant :
    Inv { busy 1 with encAcc := 0x1FFF#21, encPend := 13#5, decAcc := 0x7F#21, decPend := 7#5 } ∧
    ∃ t, step { busy 1 with encAcc := 0x1FFF#21, encPend := 13#5, decAcc := 0x7F#21, decPend := 7#5 } = .next t :=
  ⟨fun _ => ⟨by decide, by decide, fun _ => rfl, Nat.le_refl 1, Nat.succ_pos _, by decide⟩, _, step_inFlight rfl rfl⟩
theorem witness_BlockNeverStops : (busy 1).hadReset = true ∧ Inv (busy 1) :=
  ⟨rfl, fun _ => ⟨by decide, by decide, fun _ => rfl, Nat.le_refl 1, Nat.succ_pos _, by decide⟩⟩
theorem witness_UnitsInterleaveFreely : EncInv (encState 0x1FFF 13) := by decide

theorem witness_CoresAreIndependent :
    (0 : Fin 2) ≠ 1 ∧ (Platform.stepAt #v[State.reset, busy 1] (0 : Fin 2)).isSome = true := ⟨by decide, rfl⟩

end Sys2Proof.Tests
end

section
/-! SUPPORT. The scope family: the constants of R7, and the refinement of atomic transactions by the ports
(R6, R63, R71).  Two facts carry the refinement.  A command reads and writes nothing of the host's side of a
state, so it commutes with a change of the inputs still to come; and one transaction's inputs take a ready
block through exactly one atomic transaction, a stop included. -/

namespace Sys2Proof.Machine

/-! ## Going on after an answer -/

/-- Go on from the next state; a fault or a refusal is final. -/
def Answer.bind (a : Answer) (f : State → Answer) : Answer :=
  match a with
  | .next s => f s
  | .fault e => .fault e
  | .refused r => .refused r

@[simp] theorem Answer.bind_next (s : State) (f : State → Answer) : Answer.bind (.next s) f = f s := rfl
@[simp] theorem Answer.bind_fault (e : Fault) (f : State → Answer) : Answer.bind (.fault e) f = .fault e := rfl
@[simp] theorem Answer.bind_refused (r : Refusal) (f : State → Answer) :
    Answer.bind (.refused r) f = .refused r := rfl

/-- A transaction runs the word and takes its response. -/
theorem transact_eq_bind (w : Cmd) (s : State) :
    transact w s = Answer.bind (runWord w s) fun t => .next t.takeRsp := by
  unfold transact; cases runWord w s <;> rfl

/-- A run of words is its first transaction and the run of the others, stops included. -/
theorem runWords_cons_eq_bind (w : Cmd) (ws : List Cmd) (s : State) :
    runWords (w :: ws) s = Answer.bind (transact w s) (runWords ws) := by
  rw [runWords]; cases transact w s <;> rfl

/-- A run of edges is its first step and the run of the others, stops included. -/
theorem runEdges_succ_eq_bind (k : Nat) (s : State) :
    runEdges (k + 1) s = Answer.bind (step s) (runEdges k) := by
  rw [runEdges]; cases step s <;> rfl

/-- A run of edges splits at any edge, stops included. -/
theorem runEdges_add_eq_bind (j k : Nat) (s : State) :
    runEdges (j + k) s = Answer.bind (runEdges j s) (runEdges k) := by
  induction j generalizing s with
  | zero => rw [Nat.zero_add]; rfl
  | succ j ih =>
    rw [Nat.add_right_comm, runEdges_succ_eq_bind, runEdges_succ_eq_bind]
    cases step s with
    | next t => exact ih t
    | fault e => rfl
    | refused r => rfl

/-! ## A command does not see the host's side -/

/-- The block of `s`, registers and handshake, beside the host's side of `h`: the fields of `SameHost`. -/
def State.atHost (s h : State) : State :=
  { s with
    hadReset := h.hadReset, pins := h.pins, offered := h.offered, freeCount := h.freeCount, taken := h.taken }

@[simp] theorem State.atHost_self (s : State) : s.atHost s = s := rfl

/-- The state `s` with `ps` as the inputs to come. -/
def State.withPins (s : State) (ps : List PinSample) : State := { s with pins := ps }

@[simp] theorem State.withPins_hadReset (s : State) (ps : List PinSample) :
    (s.withPins ps).hadReset = s.hadReset := rfl
@[simp] theorem State.withPins_handshake (s : State) (ps : List PinSample) :
    (s.withPins ps).handshake = s.handshake := rfl
@[simp] theorem State.withPins_pins (s : State) (ps : List PinSample) : (s.withPins ps).pins = ps := rfl
@[simp] theorem State.withPins_offered (s : State) (ps : List PinSample) :
    (s.withPins ps).offered = s.offered := rfl
@[simp] theorem State.withPins_withPins (s : State) (ps qs : List PinSample) :
    (s.withPins ps).withPins qs = s.withPins qs := rfl

/-- Taking the response does not look at the inputs to come. -/
@[simp] theorem State.takeRsp_withPins (s : State) (ps : List PinSample) :
    (s.withPins ps).takeRsp = s.takeRsp.withPins ps := by
  cases h : s.handshake with
  | ready => simp [State.takeRsp, h]
  | inFlight n r =>
    rw [State.takeRsp_inFlight s h, State.takeRsp_inFlight (s.withPins ps) h]
    rfl

/-- A host's side that differs in the inputs to come alone changes them alone. -/
theorem State.atHost_withPins_of_sameHost {s t : State} (h : SameHost s t) (ps : List PinSample) :
    t.atHost (s.withPins ps) = t.withPins ps := by
  obtain ⟨hreset, -, hoffered, hcount, htaken⟩ := h
  simp [State.atHost, State.withPins, hreset, hoffered, hcount, htaken]

/-- Responding with symbols commutes with a change of the host's side. -/
theorem respondSymbols_atHost (out : Option (List Byte)) (s h : State) :
    respondSymbols out (s.atHost h) = Answer.bind (respondSymbols out s) fun t => .next (t.atHost h) := by
  cases out <;> rfl

/-- Packing a word commutes with a change of the host's side. -/
theorem packIfDue_atHost (a : Acc) (p : Pend) (s h : State) :
    packIfDue a p (s.atHost h) = Answer.bind (packIfDue a p s) fun t => .next (t.atHost h) := by
  unfold packIfDue
  split
  · exact respondSymbols_atHost _ (s.setEncoder _ _) h
  · rfl

/-- Taking an alphabet member in commutes with a change of the host's side. -/
theorem decMember_atHost (v : SymVal) (s h : State) :
    decMember v (s.atHost h) = Answer.bind (decMember v s) fun t => .next (t.atHost h) := by
  show (if s.decPwv then _ else _) = Answer.bind (if s.decPwv then _ else _) _
  split <;> rfl

/-- Every command commutes with a change of the host's side: it reads and writes registers and the handshake
only (R35). -/
theorem exec_atHost (i : Instr) (s h : State) :
    exec i (s.atHost h) = Answer.bind (exec i s) fun t => .next (t.atHost h) := by
  cases i with
  | encWrite b => exact packIfDue_atHost _ _ s h
  | encFlush => exact respondSymbols_atHost _ (s.setEncoder 0#21 0#5) h
  | encClear => rfl
  | decWrite c =>
    show (if s.decErr then _ else _) = Answer.bind (if s.decErr then _ else _) _
    split
    · rfl
    · cases decLut c with
      | none => rfl
      | some v => exact decMember_atHost v s h
  | decFlush =>
    show (if s.decErr then _ else _) = Answer.bind (if s.decErr then _ else _) _
    split <;> rfl
  | decClear => rfl
  | lutEnc k =>
    simp only [exec, execLutEnc]
    cases encLut k.toNat <;> rfl
  | lutDec c =>
    simp only [exec, execLutDec]
    cases decLut c <;> rfl

/-- Every command word, reserved ones included, commutes with a change of the host's side. -/
theorem runWord_atHost (w : Cmd) (s h : State) :
    runWord w (s.atHost h) = Answer.bind (runWord w s) fun t => .next (t.atHost h) := by
  unfold runWord
  cases decode w with
  | ok i => exact exec_atHost i s h
  | error e => rfl

/-- A command word leaves the host's side as it is: running it beside the host's side it already has changes
nothing. -/
theorem runWord_sameHost {w : Cmd} {s t : State} (h : runWord w s = .next t) : SameHost s t := by
  have hself := runWord_atHost w s s
  rw [State.atHost_self, h, Answer.bind_next] at hself
  injection hself with hself
  rw [hself]
  exact ⟨rfl, rfl, rfl, rfl, rfl⟩

/-- Running a command word commutes with a change of the inputs to come. -/
theorem runWord_withPins (w : Cmd) (s : State) (ps : List PinSample) :
    runWord w (s.withPins ps) = Answer.bind (runWord w s) fun t => .next (t.withPins ps) := by
  have hcomm : runWord w (s.withPins ps) = _ := runWord_atHost w s (s.withPins ps)
  cases hrun : runWord w s with
  | next t =>
    rw [hrun, Answer.bind_next, State.atHost_withPins_of_sameHost (runWord_sameHost hrun)] at hcomm
    exact hcomm
  | fault e => rw [hrun] at hcomm; exact hcomm
  | refused r => rw [hrun] at hcomm; exact hcomm

/-- A transaction commutes with a change of the inputs to come. -/
theorem transact_withPins (w : Cmd) (s : State) (ps : List PinSample) :
    transact w (s.withPins ps) = Answer.bind (transact w s) fun t => .next (t.withPins ps) := by
  rw [transact_eq_bind, transact_eq_bind, runWord_withPins]
  cases runWord w s with
  | next t => simp
  | fault e => rfl
  | refused r => rfl

/-- A transaction leaves the block ready, reset as before, and no other word presented. -/
theorem transact_next_ready {w : Cmd} {s t : State} (h : transact w s = .next t) :
    t.hadReset = s.hadReset ∧ t.handshake = .ready ∧ t.offered = s.offered := by
  rw [transact_eq_bind] at h
  cases hrun : runWord w s with
  | next u =>
    rw [hrun] at h
    cases h
    obtain ⟨hreset, -, hoffered, -, -⟩ := runWord_sameHost hrun
    exact ⟨by simpa using hreset, State.takeRsp_handshake u, by simpa using hoffered⟩
  | fault e => rw [hrun] at h; cases h
  | refused r => rw [hrun] at h; cases h

/-! ## One transaction at the ports -/

/-- The edge at which a ready block is presented a word, with no other word presented before, runs the word
(R71 point 1). -/
theorem step_transactionPins {w : Cmd} {s : State} {ps : List PinSample} (hreset : s.hadReset = true)
    (hready : s.handshake = .ready) (hoffered : s.offered = [])
    (hpins : s.pins = { cmdValid := true, cmdWord := w } :: ps) :
    step s = runWord w (s.withPins ps) := by
  have hsample := State.sample_of_cons hpins
  have hstable : s.dropPins.heldStable w = true := by simp [State.heldStable, hoffered]
  have hafter : s.dropPins.clearOffers = s.withPins ps := by
    simp [State.dropPins, State.clearOffers, State.withPins, hpins, hoffered]
  calc step s = acceptWord s.sample.cmdWord s.dropPins :=
        step_accept (by rw [hsample]) hready (by rw [hsample])
    _ = acceptWord w s.dropPins := by rw [hsample]
    _ = runWord w s.dropPins.clearOffers := acceptWord_stable hreset hstable
    _ = runWord w (s.withPins ps) := by rw [hafter]

/-- Before `CMD_LATENCY` cycles have passed, an edge at which the host is ready for the response counts one
(R71 point 3). -/
theorem step_rspReady_wait {n : Nat} {s : State} {r : Rsp} {ps : List PinSample}
    (hflight : s.handshake = .inFlight n r) (hn : n < Config.cmdLatency)
    (hpins : s.pins = { rspReady := true } :: ps) :
    step s = .next { s.withPins ps with handshake := .inFlight (n + 1) r } := by
  have hsample := State.sample_of_cons hpins
  have hdrop : s.dropPins = s.withPins ps := by simp [State.dropPins, State.withPins, hpins]
  rw [step_inFlight (by rw [hsample]) hflight, hsample, hdrop, flightEdge_wait (s := s.withPins ps) hflight hn,
    State.noteOffer_none _ rfl]

/-- Once they have passed, such an edge takes the response (R71 point 4). -/
theorem step_rspReady_take {n : Nat} {s : State} {r : Rsp} {ps : List PinSample}
    (hflight : s.handshake = .inFlight n r) (hn : Config.cmdLatency ≤ n)
    (hpins : s.pins = { rspReady := true } :: ps) :
    step s = .next (s.withPins ps).takeRsp := by
  have hsample := State.sample_of_cons hpins
  have hdrop : s.dropPins = s.withPins ps := by simp [State.dropPins, State.withPins, hpins]
  rw [step_inFlight (by rw [hsample]) hflight, hsample, hdrop,
    flightEdge_take (s := s.withPins ps) hflight hn rfl, State.noteOffer_none _ rfl,
    State.takeRsp_inFlight (s.withPins ps) hflight]

/-- Edges at which the host is ready for the response of a command in flight: one for each cycle that
`CMD_LATENCY` still asks for, and one more, at which the response is taken. -/
theorem runEdges_inFlight {k n : Nat} {s : State} {r : Rsp} {ps : List PinSample}
    (hflight : s.handshake = .inFlight n r) (hn : n + k = Config.cmdLatency)
    (hpins : s.pins = List.replicate (k + 1) { rspReady := true } ++ ps) :
    runEdges (k + 1) s = .next (s.takeRsp.withPins ps) := by
  induction k generalizing n s with
  | zero =>
    rw [runEdges_succ (step_rspReady_take hflight hn.ge hpins), State.takeRsp_withPins]
    rfl
  | succ k ih =>
    have hnext : s.pins = { rspReady := true } :: (List.replicate (k + 1) { rspReady := true } ++ ps) := hpins
    rw [runEdges_succ (step_rspReady_wait hflight (by omega) hnext), ih rfl (by omega) rfl,
      State.takeRsp_inFlight s hflight, State.takeRsp_inFlight _ rfl]
    rfl

/-- The inputs of one transaction take a ready block through exactly that atomic transaction (R6, R71). -/
theorem runEdges_transactionPins {w : Cmd} {s : State} {ps : List PinSample} (hreset : s.hadReset = true)
    (hready : s.handshake = .ready) (hoffered : s.offered = []) (hpins : s.pins = transactionPins w ++ ps) :
    runEdges (Config.cmdLatency + 1) s =
      Answer.bind (transact w s) fun t => .next (t.withPins ps) := by
  rw [runEdges_succ_eq_bind, step_transactionPins hreset hready hoffered hpins, runWord_withPins, transact_eq_bind]
  cases hrun : runWord w s with
  | next t =>
    obtain ⟨r, hflight⟩ := runWord_inFlight hrun
    have htake := runEdges_inFlight (k := Config.cmdLatencyAboveOne) (ps := ps)
      (s := t.withPins (List.replicate Config.cmdLatency { rspReady := true } ++ ps)) hflight (Nat.add_comm _ _) rfl
    rw [State.takeRsp_withPins, State.withPins_withPins] at htake
    exact htake
  | fault e => rfl
  | refused r => rfl

end Sys2Proof.Machine

namespace Sys2Proof.Proofs

open Sys2Proof.Machine

/-- Settles O1: each constant is its definition's value, `WORD_BITS` because WORD_MAX = 8648 lies between
2^13 and 2^14. -/
theorem constantsFollowFromBase : Obligations.ConstantsFollowFromBase := by
  have hbits : Nat.log2 8648 = 13 := (Nat.log2_eq_iff (by decide)).2 ⟨by decide, by decide⟩
  exact ⟨rfl, rfl, hbits.symm, rfl, rfl⟩

/-- Settles O48, by induction on the words: the edges of the first transaction come to its atomic
transaction, and the inputs still to come do not matter to it. -/
theorem portsRefineTransactions : Obligations.PortsRefineTransactions := by
  unfold Obligations.PortsRefineTransactions
  intro s ws rest hreset hready hoffered hpins
  induction ws generalizing s with
  | nil =>
    have hrest : s.pins = rest := hpins
    subst hrest
    rw [List.length_nil, Nat.zero_mul]
    rfl
  | cons w ws ih =>
    have hfirst : s.pins = transactionPins w ++ (runPins ws ++ rest) := by
      simpa [runPins] using hpins
    have hedges : (w :: ws).length * (Config.cmdLatency + 1) =
        (Config.cmdLatency + 1) + ws.length * (Config.cmdLatency + 1) := by
      rw [List.length_cons, Nat.add_one_mul, Nat.add_comm]
    show _ = runWords (w :: ws) (s.withPins rest)
    rw [hedges, runEdges_add_eq_bind, runEdges_transactionPins hreset hready hoffered hfirst,
      runWords_cons_eq_bind, transact_withPins]
    cases hrun : transact w s with
    | next t =>
      obtain ⟨htreset, htready, htoffered⟩ := transact_next_ready hrun
      exact ih (t.withPins (runPins ws ++ rest)) (htreset.trans hreset) htready (htoffered.trans hoffered) rfl
    | fault e => rfl
    | refused r => rfl

end Sys2Proof.Proofs
end

section
/-! SUPPORT. The state family (10_state.md): reset, what each command reads and writes, and the invariants R23
and R28.  One fact per unit carries the frames: in states that agree on a unit's registers, a command of
that unit leaves the same registers and the same response, and everything else as it was.  The invariants
are arithmetic on the packing operations, and a step lemma lifts them to every edge of the ports. -/

namespace Sys2Proof.Machine

/-! ## The fields of a response -/

@[simp] theorem rspStatus_fields (st : BitVec 3) (n : BitVec 2) (b1 b0 : Byte) :
    rspStatus (st ++ n ++ b1 ++ b0) = st := by
  rw [rspStatus, BitVec.extractLsb'_append_eq_of_le (by decide), BitVec.extractLsb'_append_eq_of_le (by decide)]
  exact BitVec.extractLsb'_append_eq_left

@[simp] theorem rspCount_fields (st : BitVec 3) (n : BitVec 2) (b1 b0 : Byte) :
    rspCount (st ++ n ++ b1 ++ b0) = n := by
  rw [rspCount, BitVec.extractLsb'_append_eq_of_le (by decide), BitVec.extractLsb'_append_eq_of_le (by decide)]
  exact BitVec.extractLsb'_append_eq_right

@[simp] theorem rspB1_fields (st : BitVec 3) (n : BitVec 2) (b1 b0 : Byte) :
    rspB1 (st ++ n ++ b1 ++ b0) = b1 := by
  rw [rspB1, BitVec.extractLsb'_append_eq_of_le (by decide)]
  exact BitVec.extractLsb'_append_eq_right

@[simp] theorem rspB0_fields (st : BitVec 3) (n : BitVec 2) (b1 b0 : Byte) :
    rspB0 (st ++ n ++ b1 ++ b0) = b0 :=
  BitVec.extractLsb'_append_eq_right

/-- A packed response carries the code of its status, whatever its output. -/
@[simp] theorem rspStatus_packRsp (st : Status) (out : List Byte) : rspStatus (packRsp st out) = st.code := by
  match out with
  | [] | [_] | _ :: _ :: _ => exact rspStatus_fields _ _ _ _

/-- A status code is at most 4 (R170). -/
theorem Status.code_le (st : Status) : st.code.toNat ≤ 4 := by cases st <;> decide

/-- Only OK has the code 0 (R170). -/
theorem Status.code_eq_zero {st : Status} : st.code = 0#3 ↔ st = .ok := by cases st <;> decide

/-- A packed response is well formed where a status other than OK comes without output (R79). -/
theorem packRsp_wellFormed {st : Status} {out : List Byte} (h : st ≠ .ok → out = []) :
    RspWellFormed (packRsp st out) := by
  have hne : rspStatus (packRsp st out) ≠ 0#3 → out = [] := fun hst =>
    h fun hok => hst (by rw [rspStatus_packRsp, Status.code_eq_zero.2 hok])
  refine ⟨by simpa using st.code_le, ?_⟩
  match out with
  | [] => simp [packRsp]
  | [_] | _ :: _ :: _ =>
    exact ⟨by simp [packRsp], by simp [packRsp], by simp [packRsp], fun hst => by cases hne hst⟩

/-! ## What a command reads and writes -/

/-- The handshake of `s` in the state `h`. -/
def State.rspOnto (s h : State) : State := { h with handshake := s.handshake }

/-- The encoder registers of `s` in the state `h`: the fields of `SameEnc`. -/
def State.encOnto (s h : State) : State := h.setEncoder s.encAcc s.encPend

/-- The decoder registers of `s` in the state `h`: the fields of `SameDec`. -/
def State.decOnto (s h : State) : State :=
  { h with
    decPwv := s.decPwv, decPw := s.decPw, decAcc := s.decAcc, decPend := s.decPend, decErr := s.decErr }

theorem State.encOnto_of_sameEnc {s h : State} (hs : SameEnc s h) : s.encOnto h = h := by
  obtain ⟨hacc, hpend⟩ := hs
  simp [State.encOnto, State.setEncoder, ← hacc, ← hpend]

theorem State.decOnto_of_sameDec {s h : State} (hs : SameDec s h) : s.decOnto h = h := by
  obtain ⟨hpwv, hpw, hacc, hpend, herr⟩ := hs
  simp [State.decOnto, ← hpwv, ← hpw, ← hacc, ← hpend, ← herr]

/-- Packing commutes with a change of everything outside the encoder. -/
theorem packIfDue_encOnto (a : Acc) (p : Pend) (s h : State) :
    packIfDue a p (s.encOnto h) =
      Answer.bind (packIfDue a p s) fun t => .next (t.rspOnto (t.encOnto h)) := by
  unfold packIfDue
  split
  · cases symbolPair (packWord a p).word.toNat <;> rfl
  · rfl

/-- An encoder command commutes with a change of everything outside the encoder: it reads and writes ENC_ACC
and ENC_PEND only (R35). -/
theorem exec_encOnto {i : Instr} (hi : isEnc i = true) (s h : State) :
    exec i (s.encOnto h) = Answer.bind (exec i s) fun t => .next (t.rspOnto (t.encOnto h)) := by
  cases i with
  | encWrite b => exact packIfDue_encOnto _ _ s h
  | encFlush =>
    show respondSymbols (flushSymbols s.encAcc s.encPend) _ =
      Answer.bind (respondSymbols (flushSymbols s.encAcc s.encPend) _) _
    cases flushSymbols s.encAcc s.encPend <;> rfl
  | encClear => rfl
  | decWrite _ | decFlush | decClear | lutEnc _ | lutDec _ => nomatch hi

/-- Taking an alphabet member in commutes with a change of everything outside the decoder. -/
theorem decMember_decOnto (v : SymVal) (s h : State) :
    decMember v (s.decOnto h) =
      Answer.bind (decMember v s) fun t => .next (t.rspOnto (t.decOnto h)) := by
  show (if s.decPwv then _ else _) = Answer.bind (if s.decPwv then _ else _) _
  split <;> rfl

/-- A decoder command commutes with a change of everything outside the decoder: it reads and writes the
decoder registers only (R35). -/
theorem exec_decOnto {i : Instr} (hi : isDec i = true) (s h : State) :
    exec i (s.decOnto h) = Answer.bind (exec i s) fun t => .next (t.rspOnto (t.decOnto h)) := by
  cases i with
  | decWrite c =>
    show (if s.decErr then _ else _) = Answer.bind (if s.decErr then _ else _) _
    split
    · rfl
    · cases decLut c with
      | none => rfl
      | some v => exact decMember_decOnto v s h
  | decFlush =>
    show (if s.decErr then _ else _) = Answer.bind (if s.decErr then _ else _) _
    split <;> rfl
  | decClear => rfl
  | encWrite _ | encFlush | encClear | lutEnc _ | lutDec _ => nomatch hi

/-- A lookup command answers the same in any two states, and writes no register (R35). -/
theorem exec_rspOnto {i : Instr} (he : isEnc i = false) (hd : isDec i = false) (s h : State) :
    exec i h = Answer.bind (exec i s) fun t => .next (t.rspOnto h) := by
  cases i with
  | lutEnc k =>
    simp only [exec, execLutEnc]
    cases encLut k.toNat <;> rfl
  | lutDec c =>
    simp only [exec, execLutDec]
    cases decLut c <;> rfl
  | encWrite _ | encFlush | encClear => nomatch he
  | decWrite _ | decFlush | decClear => nomatch hd

/-- No command belongs to both units (R74). -/
theorem isDec_of_isEnc {i : Instr} (hi : isEnc i = true) : isDec i = false := by
  cases i with
  | encWrite _ | encFlush | encClear => rfl
  | decWrite _ | decFlush | decClear | lutEnc _ | lutDec _ => nomatch hi

/-- What an encoder command leaves in a second state with the same encoder registers. -/
theorem exec_enc_next {i : Instr} {s h t u : State} (hi : isEnc i = true) (hs : SameEnc s h)
    (ht : exec i s = .next t) (hu : exec i h = .next u) : u = t.rspOnto (t.encOnto h) := by
  have hcomm := exec_encOnto hi s h
  rw [State.encOnto_of_sameEnc hs, hu, ht] at hcomm
  exact Host.Outcome.next.inj hcomm

/-- What a decoder command leaves in a second state with the same decoder registers. -/
theorem exec_dec_next {i : Instr} {s h t u : State} (hi : isDec i = true) (hs : SameDec s h)
    (ht : exec i s = .next t) (hu : exec i h = .next u) : u = t.rspOnto (t.decOnto h) := by
  have hcomm := exec_decOnto hi s h
  rw [State.decOnto_of_sameDec hs, hu, ht] at hcomm
  exact Host.Outcome.next.inj hcomm

/-- What a lookup command leaves in a second state. -/
theorem exec_lut_next {i : Instr} {s h t u : State} (he : isEnc i = false) (hd : isDec i = false)
    (ht : exec i s = .next t) (hu : exec i h = .next u) : u = t.rspOnto h := by
  have hcomm := exec_rspOnto he hd s h
  rw [hu, ht] at hcomm
  exact Host.Outcome.next.inj hcomm

/-- Every command leaves the model's own fields as they are. -/
theorem exec_sameHost {i : Instr} {s t : State} (h : exec i s = .next t) : SameHost s t := by
  have hself := exec_atHost i s s
  rw [State.atHost_self, h] at hself
  rw [Host.Outcome.next.inj hself]
  exact ⟨rfl, rfl, rfl, rfl, rfl⟩

/-- A command of another unit leaves the encoder registers as they are (R35). -/
theorem exec_sameEnc {i : Instr} {s t : State} (hi : isEnc i = false) (h : exec i s = .next t) :
    SameEnc s t := by
  cases hd : isDec i with
  | true => rw [exec_dec_next hd ⟨rfl, rfl, rfl, rfl, rfl⟩ h h]; exact ⟨rfl, rfl⟩
  | false => rw [exec_lut_next hi hd h h]; exact ⟨rfl, rfl⟩

/-- A command of another unit leaves the decoder registers as they are (R35). -/
theorem exec_sameDec {i : Instr} {s t : State} (hi : isDec i = false) (h : exec i s = .next t) :
    SameDec s t := by
  cases he : isEnc i with
  | true => rw [exec_enc_next he ⟨rfl, rfl⟩ h h]; exact ⟨rfl, rfl, rfl, rfl, rfl⟩
  | false => rw [exec_lut_next he hi h h]; exact ⟨rfl, rfl, rfl, rfl, rfl⟩

/-! ## What the commands that write a register write -/

/-- Inversion of DEC.WRITE of an alphabet member: the low symbol is held, or the pair is complete (R141). -/
theorem decMember_eq_next {v : SymVal} {s t : State} (h : decMember v s = .next t) :
    (s.decPwv = false ∧ t = (s.holdLow v).respond .ok []) ∨ (s.decPwv = true ∧ decHigh v s = .next t) := by
  unfold decMember at h
  split at h
  next hpwv => exact .inr ⟨hpwv, h⟩
  next hpwv => exact .inl ⟨eq_false_of_ne_true hpwv, (Host.Outcome.next.inj h).symm⟩

/-- Inversion of DEC.WRITE: halted, a code outside the alphabet, or a member (R141, R175). -/
theorem execDecWrite_eq_next {c : Byte} {s t : State} (h : execDecWrite c s = .next t) :
    t = s.respond .decHalted [] ∨ t = (s.setDecErr true).respond .invalidSymbol [] ∨
      ∃ v, v.toNat ≤ 92 ∧ decMember v s = .next t := by
  unfold execDecWrite at h
  split at h
  · exact .inl (Host.Outcome.next.inj h).symm
  · split at h
    next => exact .inr (.inl (Host.Outcome.next.inj h).symm)
    next v hv => exact .inr (.inr ⟨v, decLut_le hv, h⟩)

/-- Inversion of DEC.FLUSH: halted, or the decoder cleared but for DEC_ERR (R145). -/
theorem execDecFlush_eq_next {s t : State} (h : execDecFlush s = .next t) :
    t = s.respond .decHalted [] ∨
      t = ((s.setDecoder 0#21 0#5).dropLow).respond .ok (flushBytes s) := by
  unfold execDecFlush at h
  split at h
  · exact .inl (Host.Outcome.next.inj h).symm
  · exact .inr (Host.Outcome.next.inj h).symm

/-- Inversion of the decoder commands by what they write: DEC_ERR at most, a low symbol held, a pair
completed, or the decoder cleared. -/
theorem exec_dec_eq_next {i : Instr} {s t : State} (hi : isDec i = true) (h : exec i s = .next t) :
    (∃ err st, t = (s.setDecErr err).respond st []) ∨
      (∃ v, v.toNat ≤ 92 ∧ t = (s.holdLow v).respond .ok []) ∨
      (∃ v, v.toNat ≤ 92 ∧ decHigh v s = .next t) ∨
      ∃ err out, t = (((s.setDecoder 0#21 0#5).dropLow).setDecErr err).respond .ok out := by
  cases i with
  | decWrite c =>
    obtain ht | ht | ⟨v, hv, hmember⟩ := execDecWrite_eq_next h
    · exact .inl ⟨s.decErr, _, ht⟩
    · exact .inl ⟨true, _, ht⟩
    · obtain ⟨-, ht⟩ | ⟨-, hhigh⟩ := decMember_eq_next hmember
      · exact .inr (.inl ⟨v, hv, ht⟩)
      · exact .inr (.inr (.inl ⟨v, hv, hhigh⟩))
  | decFlush =>
    obtain ht | ht := execDecFlush_eq_next h
    · exact .inl ⟨s.decErr, _, ht⟩
    · exact .inr (.inr (.inr ⟨s.decErr, _, ht⟩))
  | decClear => exact .inr (.inr (.inr ⟨false, _, (Host.Outcome.next.inj h).symm⟩))
  | encWrite _ | encFlush | encClear | lutEnc _ | lutDec _ => nomatch hi

/-- DEC.FLUSH leaves DEC_ERR as it is (R35). -/
theorem execDecFlush_decErr {s t : State} (h : execDecFlush s = .next t) : t.decErr = s.decErr := by
  obtain rfl | rfl := execDecFlush_eq_next h <;> rfl

/-- Inversion of `exec` by its response: OK, or an error that leaves every register, or INVALID_SYMBOL of a
DEC.WRITE, which sets DEC_ERR (R35, R176). -/
theorem exec_eq_next_by_status {i : Instr} {s t : State} (h : exec i s = .next t) :
    (∃ out u, t = State.respond .ok out u) ∨ (∃ st, t = s.respond st []) ∨
      ((∃ c, i = .decWrite c) ∧ t = (s.setDecErr true).respond .invalidSymbol []) := by
  cases i with
  | encWrite b =>
    obtain ⟨out, hout⟩ := packIfDue_eq (appendBits s.encAcc s.encPend b) (s.encPend + 8#5) s
    exact .inl ⟨out, _, Host.Outcome.next.inj (h.symm.trans hout)⟩
  | encFlush =>
    obtain ⟨out, -, ht⟩ := respondSymbols_eq_next.1 h
    exact .inl ⟨out, _, ht⟩
  | encClear => exact .inl ⟨[], _, (Host.Outcome.next.inj h).symm⟩
  | decWrite c =>
    obtain ht | ht | ⟨v, -, hv⟩ := execDecWrite_eq_next h
    · exact .inr (.inl ⟨_, ht⟩)
    · exact .inr (.inr ⟨⟨c, rfl⟩, ht⟩)
    · obtain ⟨-, ht⟩ | ⟨-, hhigh⟩ := decMember_eq_next hv
      · exact .inl ⟨[], _, ht⟩
      · exact .inl ⟨_, _, (Host.Outcome.next.inj hhigh).symm⟩
  | decFlush =>
    obtain ht | ht := execDecFlush_eq_next h
    · exact .inr (.inl ⟨_, ht⟩)
    · exact .inl ⟨_, _, ht⟩
  | decClear => exact .inl ⟨[], _, (Host.Outcome.next.inj h).symm⟩
  | lutEnc k =>
    simp only [exec, execLutEnc] at h
    split at h
    · exact .inl ⟨_, _, (Host.Outcome.next.inj h).symm⟩
    · exact .inr (.inl ⟨_, (Host.Outcome.next.inj h).symm⟩)
  | lutDec c =>
    simp only [exec, execLutDec] at h
    split at h
    · exact .inl ⟨_, _, (Host.Outcome.next.inj h).symm⟩
    · exact .inr (.inl ⟨_, (Host.Outcome.next.inj h).symm⟩)

/-! ## The arithmetic of the invariants -/

/-- Dropping the low `k` of `p` bits leaves `p - k` bits. -/
theorem div_two_pow_lt {a p k : Nat} (ha : a < 2 ^ p) (hk : k ≤ p) : a / 2 ^ k < 2 ^ (p - k) :=
  Nat.div_lt_of_lt_mul (by rwa [← Nat.pow_add, Nat.add_sub_cancel' hk])

/-- The encoder's counter does not wrap when a byte is ORed in (R120). -/
theorem encPend_add_eight {p : Pend} (hp : p.toNat ≤ 13) : (p + 8#5).toNat = p.toNat + 8 :=
  BitVec.toNat_add_of_lt (by rw [BitVec.toNat_ofNat]; omega)

/-- Packing a word from 14 to 21 bits leaves at most 8, and nothing above them (R23, R123). -/
theorem packWord_fits {a : Acc} {p : Pend} (hdue : 13 < p.toNat) (hp : p.toNat ≤ 21)
    (ha : a.toNat < 2 ^ p.toNat) :
    (packWord a p).pend.toNat ≤ 8 ∧ (packWord a p).acc.toNat < 2 ^ (packWord a p).pend.toNat := by
  have h13 : (p - 13#5).toNat = p.toNat - 13 := by
    rw [BitVec.toNat_sub_of_le (by rw [BitVec.le_def, BitVec.toNat_ofNat]; omega)]; rfl
  have h14 : (p - 13#5 - 1#5).toNat = p.toNat - 14 := by
    rw [BitVec.toNat_sub_of_le (by rw [BitVec.le_def, h13, BitVec.toNat_ofNat]; omega), h13]; rfl
  by_cases hshort : a.toNat % 8192 < 457
  · obtain ⟨-, hacc, hpend⟩ := packWord_short a p hshort
    rw [hacc, hpend, h14]
    exact ⟨by omega, div_two_pow_lt (k := 14) ha (by omega)⟩
  · obtain ⟨-, hacc, hpend⟩ := packWord_full a p (by omega)
    rw [hacc, hpend, h13]
    exact ⟨by omega, div_two_pow_lt (k := 13) ha (by omega)⟩

/-- The word of a pair of symbol values stands in its own width (R143). -/
theorem pairWord_lt_two_pow_wordWidth {lo hi : SymVal} (hlo : lo.toNat ≤ 92) (hhi : hi.toNat ≤ 92) :
    (pairWord lo hi).toNat < 2 ^ wordWidth (pairWord lo hi) := by
  have hw := pairWord_toNat lo hi hhi
  unfold wordWidth
  split
  next => exact (pairWord lo hi).isLt
  next hfull =>
    have hcand : 457 ≤ (pairWord lo hi).toNat % 8192 := by simpa [isShort] using hfull
    omega

/-- A word is 13 or 14 bits wide (R123). -/
theorem wordWidth_bounds (w : PackedWord) : 13 ≤ wordWidth w ∧ wordWidth w ≤ 14 := by
  unfold wordWidth; split <;> omega

/-- Appending a value that stands in its low `k` bits leaves nothing above the `k` bits. -/
theorem appendBits_lt_of_lt {n k : Nat} {a : Acc} {p : Pend} {v : BitVec n} (ha : a.toNat < 2 ^ p.toNat)
    (hn : p.toNat + n ≤ 21) (hv : v.toNat < 2 ^ k) : (appendBits a p v).toNat < 2 ^ (p.toNat + k) := by
  rw [appendBits_toNat a p v ha hn]
  calc a.toNat + v.toNat * 2 ^ p.toNat < (v.toNat + 1) * 2 ^ p.toNat := by rw [Nat.add_one_mul]; omega
    _ ≤ 2 ^ k * 2 ^ p.toNat := Nat.mul_le_mul_right _ hv
    _ = 2 ^ (p.toNat + k) := by rw [Nat.pow_add, Nat.mul_comm]

/-- Releasing bytes from 8 to 23 bits leaves at most 7, and nothing above them (R28, R144). -/
theorem releaseBytes_fits {a : Acc} {p : Pend} (h8 : 8 ≤ p.toNat) (hp : p.toNat ≤ 23)
    (ha : a.toNat < 2 ^ p.toNat) :
    (releaseBytes 2 a p).pend.toNat ≤ 7 ∧
      (releaseBytes 2 a p).acc.toNat < 2 ^ (releaseBytes 2 a p).pend.toNat := by
  have hone := pend_sub_eight h8
  have haone : (a >>> 8).toNat < 2 ^ (p - 8#5).toNat := by
    rw [BitVec.toNat_ushiftRight, Nat.shiftRight_eq_div_pow, hone]
    exact div_two_pow_lt ha h8
  by_cases h16 : p.toNat < 16
  · rw [releaseBytes_one h8 h16]
    exact ⟨by show (p - 8#5).toNat ≤ 7; omega, haone⟩
  · have htwo := pend_sub_eight (p := p - 8#5) (by omega)
    rw [releaseBytes_two (by omega)]
    refine ⟨by show (p - 8#5 - 8#5).toNat ≤ 7; omega, ?_⟩
    rw [BitVec.toNat_ushiftRight, Nat.shiftRight_eq_div_pow, htwo]
    exact div_two_pow_lt haone (by omega)

/-! ## The invariants over a command -/

/-- The encoder invariant speaks of the encoder registers only. -/
theorem encInv_of_sameEnc {s t : State} (h : SameEnc s t) (hs : EncInv s) : EncInv t := by
  obtain ⟨hacc, hpend⟩ := h
  rw [EncInv, hacc, hpend]; exact hs

/-- The decoder invariant speaks of the decoder registers only. -/
theorem decInv_of_sameDec {s t : State} (h : SameDec s t) (hs : DecInv s) : DecInv t := by
  obtain ⟨-, hpw, hacc, hpend, -⟩ := h
  rw [DecInv, hpw, hacc, hpend]; exact hs

theorem pwClear_of_sameDec {s t : State} (h : SameDec s t) (hs : PwClear s) : PwClear t := by
  obtain ⟨hpwv, hpw, -, -, -⟩ := h
  rw [PwClear, hpwv, hpw]; exact hs

/-- Inside ENC.WRITE, after the OR, at most 21 bits are pending and nothing stands above them (R23). -/
theorem appendByte_fits {s : State} (hs : EncInv s) (b : Byte) :
    (s.encPend + 8#5).toNat = s.encPend.toNat + 8 ∧ s.encPend.toNat + 8 ≤ 21 ∧
      (appendBits s.encAcc s.encPend b).toNat < 2 ^ (s.encPend.toNat + 8) := by
  obtain ⟨hpend, hacc⟩ := hs
  exact ⟨encPend_add_eight hpend, by omega, appendBits_lt _ _ b hacc (by omega)⟩

/-- Inside DEC.WRITE, after the OR, at most 21 bits are pending and nothing stands above them (R28). -/
theorem appendPair_fits {s : State} (hs : DecInv s) {v : SymVal} (hv : v.toNat ≤ 92) :
    s.decPend.toNat + wordWidth (pairWord s.decPw v) ≤ 21 ∧
      (appendBits s.decAcc s.decPend (pairWord s.decPw v)).toNat <
        2 ^ (s.decPend.toNat + wordWidth (pairWord s.decPw v)) := by
  obtain ⟨hpend, hacc, hpw⟩ := hs
  have ⟨_, hwidth⟩ := wordWidth_bounds (pairWord s.decPw v)
  exact ⟨by omega, appendBits_lt_of_lt hacc (by omega) (pairWord_lt_two_pow_wordWidth hpw hv)⟩

/-- ENC.WRITE keeps the encoder invariant: what stays pending is at most 13 bits, or what a packed word
leaves. -/
theorem execEncWrite_keeps_encInv {b : Byte} {s t : State} (hs : EncInv s) (h : execEncWrite b s = .next t) :
    EncInv t := by
  obtain ⟨hcount, hle, hlt⟩ := appendByte_fits hs b
  obtain ⟨out, hout⟩ := packIfDue_eq (appendBits s.encAcc s.encPend b) (s.encPend + 8#5) s
  cases h.symm.trans hout
  rw [← hcount] at hlt
  split
  next hdue =>
    have ⟨hpend, hacc⟩ := packWord_fits (by simpa [wordDue] using hdue) (by omega) hlt
    exact ⟨hpend.trans (by decide), hacc⟩
  next hdue => exact ⟨by simpa [wordDue] using hdue, hlt⟩

/-- Every command keeps the encoder invariant (R23). -/
theorem exec_keeps_encInv {i : Instr} {s t : State} (hs : EncInv s) (h : exec i s = .next t) : EncInv t := by
  cases hi : isEnc i with
  | false => exact encInv_of_sameEnc (exec_sameEnc hi h) hs
  | true =>
    cases i with
    | encWrite b => exact execEncWrite_keeps_encInv hs h
    | encFlush =>
      obtain ⟨out, -, rfl⟩ := respondSymbols_eq_next.1 h
      exact ⟨Nat.zero_le _, Nat.one_pos⟩
    | encClear => cases h; exact ⟨Nat.zero_le _, Nat.one_pos⟩
    | decWrite _ | decFlush | decClear | lutEnc _ | lutDec _ => nomatch hi

/-- DEC.WRITE of a high symbol keeps the decoder invariant. -/
theorem decHigh_keeps_decInv {v : SymVal} {s t : State} (hs : DecInv s) (hv : v.toNat ≤ 92)
    (h : decHigh v s = .next t) : DecInv t := by
  obtain ⟨hle, hlt⟩ := appendPair_fits hs hv
  have ⟨hwidth, _⟩ := wordWidth_bounds (pairWord s.decPw v)
  have hcount : (s.decPend + BitVec.ofNat 5 (wordWidth (pairWord s.decPw v))).toNat =
      s.decPend.toNat + wordWidth (pairWord s.decPw v) := by
    rw [BitVec.toNat_add, BitVec.toNat_ofNat]; omega
  rw [← hcount] at hlt
  have ⟨hpend, hacc⟩ := releaseBytes_fits (by omega) (by omega) hlt
  cases h
  exact ⟨hpend, hacc, Nat.zero_le _⟩

/-- Every command keeps the decoder invariant (R28). -/
theorem exec_keeps_decInv {i : Instr} {s t : State} (hs : DecInv s) (h : exec i s = .next t) : DecInv t := by
  cases hi : isDec i with
  | false => exact decInv_of_sameDec (exec_sameDec hi h) hs
  | true =>
    obtain ⟨err, st, rfl⟩ | ⟨v, hv, rfl⟩ | ⟨v, hv, hhigh⟩ | ⟨err, out, rfl⟩ := exec_dec_eq_next hi h
    · exact hs
    · obtain ⟨hpend, hacc, -⟩ := hs
      exact ⟨hpend, hacc, hv⟩
    · exact decHigh_keeps_decInv hs hv hhigh
    · exact ⟨Nat.zero_le _, Nat.one_pos, Nat.zero_le _⟩

/-- Every command keeps DEC_PW at 0 while no low symbol is pending (R25, C8). -/
theorem exec_keeps_pwClear {i : Instr} {s t : State} (hs : PwClear s) (h : exec i s = .next t) : PwClear t := by
  cases hi : isDec i with
  | false => exact pwClear_of_sameDec (exec_sameDec hi h) hs
  | true =>
    obtain ⟨err, st, rfl⟩ | ⟨v, -, rfl⟩ | ⟨v, -, hhigh⟩ | ⟨err, out, rfl⟩ := exec_dec_eq_next hi h
    · exact hs
    · exact nofun
    · cases hhigh; exact fun _ => rfl
    · exact fun _ => rfl

/-! ## The invariant over an edge -/

/-- The invariants of the registers, without the handshake (R23, R28, R25). -/
def RegInv (s : State) : Prop := EncInv s ∧ DecInv s ∧ PwClear s

/-- The invariant of the block is the one of its registers and the one of its handshake. -/
theorem inv_iff {s : State} : Inv s ↔ (s.hadReset = true → RegInv s ∧ HandshakeInv s) := by
  simp only [Inv, RegInv, and_assoc]

/-- The invariants of the registers speak of the registers only. -/
theorem regInv_of_same {s t : State} (he : SameEnc s t) (hd : SameDec s t) (hs : RegInv s) : RegInv t := by
  obtain ⟨henc, hdec, hpw⟩ := hs
  exact ⟨encInv_of_sameEnc he henc, decInv_of_sameDec hd hdec, pwClear_of_sameDec hd hpw⟩

/-- A block at its reset values meets the invariant (R38, R200). -/
theorem inv_applyReset (s : State) : Inv s.applyReset := fun _ =>
  ⟨⟨Nat.zero_le _, Nat.one_pos⟩, ⟨Nat.zero_le _, Nat.one_pos, Nat.zero_le _⟩, fun _ => rfl, trivial⟩

/-- Every command word keeps the invariants of the registers. -/
theorem runWord_keeps_regInv {w : Cmd} {s t : State} (hs : RegInv s) (h : runWord w s = .next t) : RegInv t := by
  obtain ⟨henc, hdec, hpw⟩ := hs
  unfold runWord at h
  split at h
  · exact ⟨exec_keeps_encInv henc h, exec_keeps_decInv hdec h, exec_keeps_pwClear hpw h⟩
  · cases h; exact ⟨henc, hdec, hpw⟩

/-- A command word that runs leaves a well formed response in flight, accepted one cycle ago (R79). -/
theorem runWord_handshakeInv {w : Cmd} {s t : State} (h : runWord w s = .next t) : HandshakeInv t := by
  obtain ⟨st, out, u, rfl, -, hout⟩ := runWord_eq_next h
  exact ⟨Nat.le_refl 1, Nat.succ_pos _, packRsp_wellFormed hout⟩

/-- Inversion of an acceptance: reset has been applied, and a word runs in a state with the same registers
(R71 point 1, R204, R212). -/
theorem acceptWord_eq_next {w : Cmd} {s t : State} (h : acceptWord w s = .next t) :
    s.hadReset = true ∧ ∃ v u, SameEnc s u ∧ SameDec s u ∧ runWord v u = .next t := by
  unfold acceptWord at h
  split at h
  · refine ⟨‹_›, ?_⟩
    split at h
    · exact ⟨w, s.clearOffers, ⟨rfl, rfl⟩, ⟨rfl, rfl, rfl, rfl, rfl⟩, h⟩
    · exact ⟨s.freeWord w, s.clearOffers.countChoice, ⟨rfl, rfl⟩, ⟨rfl, rfl, rfl, rfl, rfl⟩, h⟩
  · cases h

/-- Accepting a command keeps the invariant. -/
theorem acceptWord_keeps_inv {w : Cmd} {s t : State} (hs : Inv s) (h : acceptWord w s = .next t) : Inv t := by
  obtain ⟨hreset, v, u, he, hd, hrun⟩ := acceptWord_eq_next h
  obtain ⟨hreg, -⟩ := inv_iff.1 hs hreset
  exact inv_iff.2 fun _ => ⟨runWord_keeps_regInv (regInv_of_same he hd hreg) hrun, runWord_handshakeInv hrun⟩

/-- An edge with a command in flight changes neither a register nor whether reset has been applied. -/
theorem flightEdge_sameRegs (p : PinSample) (s : State) :
    (flightEdge p s).hadReset = s.hadReset ∧ SameEnc s (flightEdge p s) ∧ SameDec s (flightEdge p s) := by
  unfold flightEdge
  split
  · split <;> simp [SameEnc, SameDec]
  · simp [SameEnc, SameDec]

/-- An edge with a command in flight counts a cycle up to CMD_LATENCY, holds the response or gives it away
(R71 points 3 and 4). -/
theorem flightEdge_keeps_handshakeInv {p : PinSample} {s : State} {n : Nat} {r : Rsp}
    (hflight : s.handshake = .inFlight n r) (hs : HandshakeInv s) : HandshakeInv (flightEdge p s) := by
  simp only [HandshakeInv, hflight] at hs
  obtain ⟨hpos, hle, hrsp⟩ := hs
  by_cases hn : n < Config.cmdLatency
  · rw [flightEdge_wait hflight hn]
    exact ⟨Nat.succ_pos n, hn, hrsp⟩
  · have hdue := Nat.le_of_not_lt hn
    cases hp : p.rspReady with
    | true => rw [flightEdge_take hflight hdue hp]; trivial
    | false =>
      rw [flightEdge_hold hflight hdue hp]
      simp only [HandshakeInv, State.noteOffer_handshake, hflight]
      exact ⟨hpos, hle, hrsp⟩

/-- An edge with a command in flight keeps the invariant. -/
theorem flightEdge_keeps_inv {p : PinSample} {s : State} {n : Nat} {r : Rsp}
    (hflight : s.handshake = .inFlight n r) (hs : Inv s) : Inv (flightEdge p s) := by
  obtain ⟨hsame, he, hd⟩ := flightEdge_sameRegs p s
  refine inv_iff.2 fun hreset => ?_
  obtain ⟨hreg, hhand⟩ := inv_iff.1 hs (hsame ▸ hreset)
  exact ⟨regInv_of_same he hd hreg, flightEdge_keeps_handshakeInv hflight hhand⟩

/-- Sampling the inputs keeps the invariant. -/
theorem dropPins_keeps_inv {s : State} (hs : Inv s) : Inv s.dropPins := hs

end Sys2Proof.Machine

namespace Sys2Proof.Proofs

open Sys2Proof.Machine

/-- Settles O51, edge by edge: reset, an idle edge, an acceptance, or an edge with a command in flight. -/
theorem stepKeepsInvariant : Obligations.StepKeepsInvariant := by
  unfold Obligations.StepKeepsInvariant
  intro s t hs h
  have hdrop := dropPins_keeps_inv hs
  cases hrst : s.sample.rst with
  | true =>
    cases (step_rst hrst).symm.trans h
    exact inv_applyReset _
  | false =>
    cases hhand : s.handshake with
    | inFlight n r =>
      cases (step_inFlight hrst hhand).symm.trans h
      exact flightEdge_keeps_inv hhand hdrop
    | ready =>
      cases hvalid : s.sample.cmdValid with
      | true => exact acceptWord_keeps_inv hdrop ((step_accept hrst hhand hvalid).symm.trans h)
      | false =>
        cases (step_idle hrst hhand hvalid).symm.trans h
        exact hdrop

/-- Settles O14, by the inversion of `exec` along its response: only OK comes with other writes. -/
theorem nonOkWritesNothing : Obligations.NonOkWritesNothing := by
  unfold Obligations.NonOkWritesNothing
  intro i s t r h hr hne
  obtain ⟨out, u, rfl⟩ | ⟨st, rfl⟩ | ⟨hwrite, rfl⟩ := exec_eq_next_by_status h
  · cases hr
    exact absurd (rspStatus_packRsp .ok out) hne
  · exact .inl rfl
  · cases hr
    exact .inr ⟨hwrite, rspStatus_packRsp .invalidSymbol [], rfl⟩

/-- Settles O15: one frame per unit, and DEC.FLUSH by its inversion. -/
theorem commandsWriteOnlyTheirUnit : Obligations.CommandsWriteOnlyTheirUnit := by
  unfold Obligations.CommandsWriteOnlyTheirUnit
  intro i s t h
  refine ⟨exec_sameHost h, fun hi => exec_sameEnc hi h, fun hi => exec_sameDec hi h, ?_⟩
  rintro rfl
  exact execDecFlush_decErr h

/-- Settles O16: the second run leaves the first run's unit and response in its own state. -/
theorem commandsReadOnlyTheirUnit : Obligations.CommandsReadOnlyTheirUnit := by
  unfold Obligations.CommandsReadOnlyTheirUnit
  intro i s s' t t' h h' hsame hsame'
  cases he : isEnc i with
  | true =>
    rw [exec_enc_next he (hsame he) h h', isDec_of_isEnc he]
    exact ⟨rfl, fun _ => ⟨rfl, rfl⟩, nofun⟩
  | false =>
    cases hd : isDec i with
    | true =>
      rw [exec_dec_next hd (hsame' hd) h h']
      exact ⟨rfl, nofun, fun _ => ⟨rfl, rfl, rfl, rfl, rfl⟩⟩
    | false =>
      rw [exec_lut_next he hd h h']
      exact ⟨rfl, nofun, nofun⟩

/-- Settles O24: at reset nothing is pending; the encoder commands keep R23 by the arithmetic of packing, the
others by their frame. -/
theorem encoderInvariantKept : Obligations.EncoderInvariantKept := by
  unfold Obligations.EncoderInvariantKept
  exact ⟨⟨Nat.zero_le _, Nat.one_pos⟩, fun _ hs => ⟨fun _ _ h => exec_keeps_encInv hs h, appendByte_fits hs⟩⟩

/-- Settles O32: at reset nothing is pending; the decoder commands keep R28 by the arithmetic of releasing, the
others by their frame. -/
theorem decoderInvariantKept : Obligations.DecoderInvariantKept := by
  unfold Obligations.DecoderInvariantKept
  exact ⟨⟨Nat.zero_le _, Nat.one_pos, Nat.zero_le _⟩,
    fun _ hs => ⟨fun _ _ h => exec_keeps_decInv hs h, fun _ hv => appendPair_fits hs hv⟩⟩

/-- Settles O41: the fields of the reset state, and its handshake is ready. -/
theorem resetState : Obligations.ResetState :=
  ⟨rfl, rfl, rfl, rfl, rfl, rfl, rfl, State.cmdReady_iff.2 ⟨rfl, rfl⟩, rfl⟩

/-- Settles O50: the reset state is at its reset values, and at power-up no reset has been applied. -/
theorem invariantHoldsInitially : Obligations.InvariantHoldsInitially :=
  ⟨inv_applyReset State.reset, nofun⟩

end Sys2Proof.Proofs
end

section
/-! SUPPORT. The memory family (20_memory.md): the commands R60 calls idempotent, and the blocks of a
platform (R67).  Such a command answers the same in every state and writes constants or nothing, so a second
run finds what the first one left; an edge at one block reads and writes that block's entry only. -/

namespace Sys2Proof.Machine

/-! ## Lookups and CLEARs -/

/-- Decoding an encoded command gives it back (R74, R75). -/
@[simp] theorem decode_encode (i : Instr) : decode (encode i) = .ok i := by
  rw [decode_encode_fields]
  cases i <;> rfl

/-- The clearing of a command: what a CLEAR does to its unit (R127, R147), nothing for the others. -/
def clearUnit : Instr → State → State
  | .encClear, s => s.setEncoder 0#21 0#5
  | .decClear, s => ((s.setDecoder 0#21 0#5).dropLow).setDecErr false
  | .encWrite _, s | .encFlush, s | .decWrite _, s | .decFlush, s | .lutEnc _, s | .lutDec _, s => s

/-- A CLEAR writes registers only. -/
@[simp] theorem clearUnit_taken (i : Instr) (s : State) : (clearUnit i s).taken = s.taken := by
  cases i <;> rfl

/-- A command of neither unit clears neither. -/
theorem clearUnit_of_lookup {i : Instr} (he : isEnc i = false) (hd : isDec i = false) (s : State) :
    clearUnit i s = s := by
  cases i with
  | lutEnc _ | lutDec _ => rfl
  | encWrite _ | encFlush | encClear => nomatch he
  | decWrite _ | decFlush | decClear => nomatch hd

/-- A state with the registers a clearing left is not changed by the same clearing. -/
theorem clearUnit_of_cleared {i : Instr} {s t : State} (he : SameEnc (clearUnit i s) t)
    (hd : SameDec (clearUnit i s) t) : clearUnit i t = t := by
  cases i with
  | encClear => exact State.encOnto_of_sameEnc he
  | decClear => exact State.decOnto_of_sameDec hd
  | encWrite _ | encFlush | decWrite _ | decFlush | lutEnc _ | lutDec _ => rfl

section

variable {i : Instr} (hi : i = .encClear ∨ i = .decClear ∨ (∃ k, i = .lutEnc k) ∨ ∃ c, i = .lutDec c)
include hi

/-- A lookup or a CLEAR gives one and the same response in every state, and clears its unit or writes no
register (R60). -/
theorem exec_lookup_or_clear : ∃ st out, ∀ s, exec i s = .next ((clearUnit i s).respond st out) := by
  obtain rfl | rfl | ⟨k, rfl⟩ | ⟨c, rfl⟩ := hi
  · exact ⟨.ok, [], fun _ => rfl⟩
  · exact ⟨.ok, [], fun _ => rfl⟩
  · simp only [exec, execLutEnc]
    cases encLut k.toNat with
    | none => exact ⟨.lutRange, [], fun _ => rfl⟩
    | some b => exact ⟨.ok, [b], fun _ => rfl⟩
  · simp only [exec, execLutDec]
    cases decLut c with
    | none => exact ⟨.invalidSymbol, [], fun _ => rfl⟩
    | some v => exact ⟨.ok, [v.setWidth 8], fun _ => rfl⟩

/-- The transaction of a lookup or a CLEAR: the same response taken in every state, and its unit cleared or
no register written. -/
theorem transact_lookup_or_clear :
    ∃ r, ∀ s, ∃ t, transact (encode i) s = .next t ∧ t.taken = s.taken ++ [r] ∧
      SameEnc (clearUnit i s) t ∧ SameDec (clearUnit i s) t := by
  obtain ⟨st, out, hexec⟩ := exec_lookup_or_clear hi
  refine ⟨packRsp st out, fun s =>
    ⟨_, transact_next ((runWord_ok (decode_encode i) s).trans (hexec s)), ?_, ⟨rfl, rfl⟩, rfl, rfl, rfl, rfl, rfl⟩⟩
  rw [State.takeRsp_respond, clearUnit_taken]

end

/-! ## The blocks of a platform -/

/-- The next state of an answer, where it has one. -/
def Answer.next? : Answer → Option State
  | .next t => some t
  | .fault _ => none
  | .refused _ => none

theorem Answer.next?_eq_some {a : Answer} {t : State} : Answer.next? a = some t ↔ a = .next t := by
  cases a <;> simp [Answer.next?]

namespace Platform

variable {n : Nat} {p : Platform n} {j k : Fin n}

/-- A step at a block puts the next state of that block in its place, where it has one. -/
theorem stepAt_eq_map (p : Platform n) (k : Fin n) :
    p.stepAt k = (Answer.next? (step p[k])).map fun t => p.set k t := by
  unfold stepAt
  cases step p[k] <;> rfl

/-- Inversion of a step at a block: the block stepped, and its next state took its place. -/
theorem stepAt_eq_some {q : Platform n} :
    p.stepAt k = some q ↔ ∃ t, step p[k] = .next t ∧ p.set k t = q := by
  simp only [stepAt_eq_map, Option.map_eq_some_iff, Answer.next?_eq_some]

/-- Putting a state in the place of one block leaves every other block alone (R37). -/
theorem getElem_set_other (h : j ≠ k) (t : State) : (p.set j t)[k] = p[k] :=
  Vector.getElem_set_ne j.isLt k.isLt (Fin.val_ne_of_ne h)

/-- A step at one block and then at another: each block's own step on its own state, stopping where either
stops (R67, R183). -/
theorem stepAt_bind_stepAt (h : j ≠ k) :
    ((p.stepAt j).bind fun q => q.stepAt k) =
      (Answer.next? (step p[j])).bind fun t => (Answer.next? (step p[k])).map fun u => (p.set j t).set k u := by
  simp only [stepAt_eq_map, Option.bind_map, Function.comp_def, getElem_set_other h]

end Platform

end Sys2Proof.Machine

namespace Sys2Proof.Proofs

open Sys2Proof.Machine

/-- Settles O40: both runs give the one response of the command, the second clears a unit already cleared, and
a lookup clears none. -/
theorem lookupsAndClearsAreIdempotent : Obligations.LookupsAndClearsAreIdempotent := by
  unfold Obligations.LookupsAndClearsAreIdempotent
  intro i s hi
  obtain ⟨r, htransact⟩ := transact_lookup_or_clear hi
  obtain ⟨t, hrunt, htaken, henc, hdec⟩ := htransact s
  obtain ⟨u, hrunu, hutaken, huenc, hudec⟩ := htransact t
  rw [clearUnit_of_cleared henc hdec] at huenc hudec
  refine ⟨t, u, r, hrunt, hrunu, htaken, ?_, huenc, hudec, fun hlookup => ?_⟩
  · rw [hutaken, htaken, List.append_assoc, List.singleton_append]
  · obtain ⟨he, hd⟩ := hlookup
    rw [clearUnit_of_lookup he hd] at henc hdec
    exact ⟨henc, hdec⟩

/-- Settles O54: a step puts one block's next state in its place, and writes at two different places
commute. -/
theorem coresAreIndependent : Obligations.CoresAreIndependent := by
  unfold Obligations.CoresAreIndependent
  intro n p j k hjk
  constructor
  · intro q hq
    obtain ⟨t, ht, rfl⟩ := Platform.stepAt_eq_some.1 hq
    exact ⟨Platform.getElem_set_other hjk t, (congrArg _ (Vector.getElem_set_self j.isLt)).trans ht.symm⟩
  · rw [Platform.stepAt_bind_stepAt hjk, Platform.stepAt_bind_stepAt hjk.symm]
    cases Answer.next? (step p[j]) with
    | none => cases Answer.next? (step p[k]) <;> rfl
    | some t =>
      cases Answer.next? (step p[k]) with
      | none => rfl
      | some u => exact congrArg some (Vector.set_comm t u (Fin.val_ne_of_ne hjk))

end Sys2Proof.Proofs
end

section
/-! SUPPORT. The encoding family (30_encoding.md): command words, response words, assembly lines, and the port
protocol of R71.  Decoding goes by the class of the opcode: one that takes an operand, one that takes none,
or neither.  A response is its four fields and nothing else.  A response in flight goes on through any
edges at which it is not taken, its count of cycles going up to CMD_LATENCY and no further. -/

namespace Sys2Proof

/-! ## Decoding by the class of the opcode -/

/-- An opcode that takes an operand decodes to its command, with every DATA (R73, R75). -/
theorem decodeFields_operand {o : Byte} (h : o ∈ operandOpcodes) (d : Byte) :
    ∃ i, opcodeOf i = o ∧ operandOf i = d ∧ decodeFields o d = .ok i := by
  simp only [operandOpcodes, List.mem_cons, List.not_mem_nil, or_false] at h
  obtain rfl | rfl | rfl | rfl := h
  · exact ⟨.encWrite d, rfl, rfl, rfl⟩
  · exact ⟨.decWrite d, rfl, rfl, rfl⟩
  · exact ⟨.lutEnc d, rfl, rfl, rfl⟩
  · exact ⟨.lutDec d, rfl, rfl, rfl⟩

/-- A FLUSH or CLEAR opcode decodes to its command with DATA 0x00 only (R73, R75). -/
theorem decodeFields_bare {o : Byte} (h : o ∈ bareOpcodes) (d : Byte) :
    ∃ i, opcodeOf i = o ∧ operandOf i = 0#8 ∧ decodeFields o d = decodeBare o d i := by
  simp only [bareOpcodes, List.mem_cons, List.not_mem_nil, or_false] at h
  obtain rfl | rfl | rfl | rfl := h
  · exact ⟨.encFlush, rfl, rfl, rfl⟩
  · exact ⟨.encClear, rfl, rfl, rfl⟩
  · exact ⟨.decFlush, rfl, rfl, rfl⟩
  · exact ⟨.decClear, rfl, rfl, rfl⟩

/-- An opcode of neither class decodes to nothing (R76 (a)). -/
theorem decodeFields_reserved {o : Byte} (hbare : o ∉ bareOpcodes) (hoperand : o ∉ operandOpcodes) (d : Byte) :
    decodeFields o d = .error (.reservedOpcode o) := by
  simp only [bareOpcodes, operandOpcodes, List.mem_cons, List.not_mem_nil, or_false, not_or,
    ← BitVec.toNat_inj, BitVec.toNat_ofNat] at hbare hoperand
  unfold decodeFields
  split
  case h_9 => rfl
  all_goals omega

/-- What decoding two fields can answer: the command they are the fields of, or one of the two grounds of
R76. -/
theorem decodeFields_cases (o d : Byte) :
    (∃ i, opcodeOf i = o ∧ operandOf i = d ∧ decodeFields o d = .ok i) ∨
      (o ∈ bareOpcodes ∧ d ≠ 0#8 ∧ decodeFields o d = .error (.nonzeroData o d)) ∨
      (o ∉ bareOpcodes ∧ o ∉ operandOpcodes ∧ decodeFields o d = .error (.reservedOpcode o)) := by
  by_cases hoperand : o ∈ operandOpcodes
  · exact .inl (decodeFields_operand hoperand d)
  · by_cases hbare : o ∈ bareOpcodes
    · obtain ⟨i, hopc, hdata, hdecode⟩ := decodeFields_bare hbare d
      by_cases hzero : d = 0#8
      · exact .inl ⟨i, hopc, hdata.trans hzero.symm, hdecode.trans (decodeBare_eq_ok.2 ⟨hzero, rfl⟩)⟩
      · exact .inr (.inl ⟨hbare, hzero, hdecode.trans (decodeBare_eq_error.2 ⟨hzero, rfl⟩)⟩)
    · exact .inr (.inr ⟨hbare, hoperand, decodeFields_reserved hbare hoperand d⟩)

/-- The word of every command is legal (R76). -/
theorem wordLegal_encode (i : Instr) : wordLegal (encode i) = true := by
  cases i with
  | encWrite b => exact Laws.Legal.encWrite b
  | encFlush => exact Laws.Legal.encFlush
  | encClear => exact Laws.Legal.encClear
  | decWrite c => exact Laws.Legal.decWrite c
  | decFlush => exact Laws.Legal.decFlush
  | decClear => exact Laws.Legal.decClear
  | lutEnc k => exact Laws.Legal.lutEnc k
  | lutDec c => exact Laws.Legal.lutDec c

/-- A word is legal when its opcode is one of the eight and its DATA is 0x00 where the opcode takes none (R76). -/
theorem wordLegal_append_iff {o d : Byte} :
    wordLegal (o ++ d) = true ↔ (o ∈ operandOpcodes ∨ o ∈ bareOpcodes) ∧ (o ∈ bareOpcodes → d = 0#8) := by
  simp [Laws.Legal.wordLegal_append, opcodeKnown, dataZeroIfUnused, imp_iff_not_or]

/-- A word that decodes to a command is that command's word. -/
theorem encode_of_decode {w : Cmd} {i : Instr} (h : decode w = .ok i) : encode i = w := by
  obtain ⟨j, hopc, hdata, hdecode⟩ | ⟨-, -, hdecode⟩ | ⟨-, -, hdecode⟩ :=
    decodeFields_cases (opcOf w) (dataOf w)
  · cases hdecode.symm.trans h
    rw [encode, hopc, hdata, append_fields]
  · cases hdecode.symm.trans h
  · cases hdecode.symm.trans h

/-- A legal word decodes to a command (R75, R76). -/
theorem decode_of_wordLegal {w : Cmd} (h : wordLegal w = true) : ∃ i, decode w = .ok i := by
  rw [← append_fields w] at h
  obtain ⟨hknown, hzero⟩ := wordLegal_append_iff.1 h
  obtain ⟨i, -, -, hdecode⟩ | ⟨hbare, hne, -⟩ | ⟨hbare, hoperand, -⟩ :=
    decodeFields_cases (opcOf w) (dataOf w)
  · exact ⟨i, hdecode⟩
  · exact absurd (hzero hbare) hne
  · exact (hknown.elim hoperand hbare).elim

end Sys2Proof

namespace Sys2Proof.Machine

/-! ## The forms of an assembly line -/

/-- An ill formed operand stands for no byte (R82). -/
theorem Operand.value_of_not_wellFormed {o : Operand} (h : o.wellFormed = false) : o.value = none := by
  simp [Operand.value, h]

/-- A well formed character literal stands for its code (R82). -/
theorem Operand.value_chr {c : Char} (h : (Operand.chr c).wellFormed = true) :
    (Operand.chr c).value = some (BitVec.ofNat 8 c.toNat) := by
  simp [Operand.value, h]

/-- Hex and decimal operands that fit DATA stand for their value (R82). -/
theorem Operand.value_number {n : Nat} (h : n < 256) :
    (Operand.hex n).value = some (BitVec.ofNat 8 n) ∧ (Operand.dec n).value = some (BitVec.ofNat 8 n) := by
  simp [Operand.value, Operand.wellFormed, h]

/-- An operand too wide for DATA is ill formed (R82). -/
theorem Operand.value_number_of_ge {n : Nat} (h : 256 ≤ n) :
    (Operand.hex n).value = none ∧ (Operand.dec n).value = none := by
  simp [Operand.value, Operand.wellFormed, h]

/-- A character literal is well formed when its character is printable ASCII other than the
single quote (0x27) and the backslash (0x5C). -/
theorem Operand.wellFormed_chr_iff {c : Char} :
    (Operand.chr c).wellFormed = true ↔
      (0x20 ≤ c.toNat ∧ c.toNat ≤ 0x7E) ∧ c.toNat ≠ 0x27 ∧ c.toNat ≠ 0x5C := by
  simp [Operand.wellFormed, isPrintable, and_assoc]

/-- Reading every element of a list, when each can be read. -/
theorem mapM_eq_some_of_map {α β : Type} {f : α → Option β} {as : List α} {bs : List β}
    (h : as.map f = bs.map some) : as.mapM f = some bs := by
  have hid : (as.map f).mapM id = as.mapM f := List.mapM_map
  rw [← hid, h, List.mapM_map]
  exact List.mapM_pure.trans (congrArg some (List.map_id bs))

/-- Reading every element of a list, when one cannot be read. -/
theorem mapM_eq_none_of_mem {α β : Type} {f : α → Option β} {as : List α} {a : α}
    (ha : a ∈ as) (h : f a = none) : as.mapM f = none := by
  obtain ⟨before, after, rfl⟩ := List.append_of_mem ha
  rw [List.mapM_append, List.mapM_cons, h]
  cases before.mapM f <;> rfl

/-- A character that a string may hold stands for its code (R83). -/
theorem strByte_eq_some {c : Char} (h : isPrintable c = true ∧ c.toNat ≠ 0x22 ∧ c.toNat ≠ 0x5C) :
    strByte c = some (BitVec.ofNat 8 c.toNat) := by
  simp [strByte, h]

/-- Neither a double quote nor a backslash stands in a string (R83). -/
theorem strByte_eq_none {c : Char} (h : c.toNat = 0x22 ∨ c.toNat = 0x5C) : strByte c = none := by
  obtain h | h := h <;> simp [strByte, h]

/-! ## The fields of a response and its output -/

/-- A response is its four fields put together (R78). -/
theorem rsp_append_fields (r : Rsp) : rspStatus r ++ rspCount r ++ rspB1 r ++ rspB0 r = r := by
  simp only [rspStatus, rspCount, rspB1, rspB0]
  rw [BitVec.extractLsb'_append_extractLsb'_eq_extractLsb' (by rfl),
    BitVec.extractLsb'_append_extractLsb'_eq_extractLsb' (by rfl),
    BitVec.extractLsb'_append_extractLsb'_eq_extractLsb' (by rfl)]
  exact BitVec.extractLsb'_eq_self

@[simp] theorem rspB0_packRsp (st : Status) (out : List Byte) : rspB0 (packRsp st out) = out.getD 0 0#8 := by
  match out with
  | [] | [_] | _ :: _ :: _ => exact rspB0_fields _ _ _ _

@[simp] theorem rspB1_packRsp (st : Status) (out : List Byte) : rspB1 (packRsp st out) = out.getD 1 0#8 := by
  match out with
  | [] | [_] | _ :: _ :: _ => exact rspB1_fields _ _ _ _

section

variable {st : Status} {out : List Byte} (hout : out.length ≤ 2)
include hout

/-- A response counts its bytes. -/
theorem rspCount_packRsp : rspCount (packRsp st out) = BitVec.ofNat 2 out.length := by
  match out, hout with
  | [], _ | [_], _ | [_, _], _ => exact rspCount_fields _ _ _ _

/-- A host reads out of a response the bytes that were put in, in stream order (R78). -/
theorem rspOutput_packRsp : rspOutput (packRsp st out) = out := by
  match out, hout with
  | [], _ | [_], _ | [_, _], _ => simp [rspOutput, rspCount_packRsp]

end

/-! ## Running a word at the ports -/

/-- DEC.WRITE of a code outside the alphabet, where the decoder is not halted (R142). -/
theorem exec_decWrite_nonMember {c : Byte} {s : State} (herr : s.decErr = false) (hc : decLut c = none) :
    exec (.decWrite c) s = .next ((s.setDecErr true).respond .invalidSymbol []) := by
  simp [exec, execDecWrite, herr, hc, raise]

/-- The edge at which a ready block is presented a word held stable runs it, on the state with the sample
consumed and no word waiting (R71 point 1). -/
theorem step_accept_stable {s : State} (hreset : s.hadReset = true) (hhand : s.handshake = .ready)
    (hrst : s.sample.rst = false) (hvalid : s.sample.cmdValid = true)
    (hstable : s.heldStable s.sample.cmdWord = true) :
    step s = runWord s.sample.cmdWord { s with pins := s.pins.tail, offered := [] } := by
  rw [step_accept hrst hhand hvalid, acceptWord_stable (s := s.dropPins) hreset hstable]
  rfl

/-! ## A response in flight -/

/-- Agreement on the encoder registers is transitive. -/
theorem sameEnc_trans {s t u : State} (h : SameEnc s t) (h' : SameEnc t u) : SameEnc s u := by
  obtain ⟨hacc, hpend⟩ := h
  obtain ⟨hacc', hpend'⟩ := h'
  exact ⟨hacc'.trans hacc, hpend'.trans hpend⟩

/-- Agreement on the decoder registers is transitive. -/
theorem sameDec_trans {s t u : State} (h : SameDec s t) (h' : SameDec t u) : SameDec s u := by
  obtain ⟨hpwv, hpw, hacc, hpend, herr⟩ := h
  obtain ⟨hpwv', hpw', hacc', hpend', herr'⟩ := h'
  exact ⟨hpwv'.trans hpwv, hpw'.trans hpw, hacc'.trans hacc, hpend'.trans hpend, herr'.trans herr⟩

/-- The cycles counted after `k` edges at which a response is not taken: the count goes up to CMD_LATENCY and
stops there (R71 point 3). -/
def countAfter (n k : Nat) : Nat := max n (min (n + k) Config.cmdLatency)

/-- Before CMD_LATENCY every edge counts. -/
theorem countAfter_of_le {n k : Nat} (h : n + k ≤ Config.cmdLatency) : countAfter n k = n + k := by
  unfold countAfter; omega

/-- From CMD_LATENCY on no edge counts. -/
theorem countAfter_of_ge {n k : Nat} (h : Config.cmdLatency ≤ n) : countAfter n k = n := by
  unfold countAfter; omega

/-- The count after one edge and `k` more. -/
theorem countAfter_succ (n k : Nat) : countAfter (countAfter n 1) k = countAfter n (k + 1) := by
  unfold countAfter; omega

/-- A response in flight is presented exactly when its CMD_LATENCY cycles have passed. -/
theorem State.rspValid_iff {s : State} {n : Nat} {r : Rsp} (h : s.handshake = .inFlight n r) :
    s.rspValid false = true ↔ Config.cmdLatency ≤ n := by
  simp [State.rspValid, State.rspPresented, h]

/-- A ready block presents no response. -/
theorem State.rspPresented_of_ready {rst : Bool} {s : State} (h : s.handshake = .ready) :
    s.rspPresented rst = none := by
  simp [State.rspPresented, h]

/-- What stands in `offered` after an edge at which no word was accepted (R212 (a)). -/
theorem State.noteOffer_offered (p : PinSample) (s : State) :
    (s.noteOffer p).offered = if p.cmdValid then s.offered ++ [p.cmdWord] else s.offered := by
  unfold State.noteOffer; split <;> rfl

/-- An edge with a command in flight notes the word presented, whatever becomes of the response. -/
theorem flightEdge_offered (p : PinSample) (s : State) :
    (flightEdge p s).offered = (s.noteOffer p).offered := by
  unfold flightEdge
  split
  · split <;> simp
  · simp

@[simp] theorem flightEdge_pins (p : PinSample) (s : State) : (flightEdge p s).pins = s.pins := by
  unfold flightEdge
  split
  · split <;> simp
  · simp

section

variable {p : PinSample} {s : State} {n : Nat} {r : Rsp} (hflight : s.handshake = .inFlight n r)
include hflight

/-- An edge at which the response is not presented yet, or the host is not ready for it, leaves it in flight. -/
theorem flightEdge_untaken (h : n < Config.cmdLatency ∨ p.rspReady = false) :
    (flightEdge p s).handshake = .inFlight (countAfter n 1) r ∧ (flightEdge p s).taken = s.taken := by
  by_cases hn : n < Config.cmdLatency
  · rw [flightEdge_wait hflight hn, countAfter_of_le hn]
    exact ⟨rfl, State.noteOffer_taken p s⟩
  · have hdue := Nat.le_of_not_lt hn
    rw [flightEdge_hold hflight hdue (h.resolve_left hn), countAfter_of_ge hdue]
    exact ⟨(State.noteOffer_handshake p s).trans hflight, State.noteOffer_taken p s⟩

/-- An edge with a command in flight leaves the response in flight or hands it over (R71 points 2 to 4). -/
theorem flightEdge_untaken_or_taken :
    ((flightEdge p s).taken = s.taken ∧ ∃ m, (flightEdge p s).handshake = .inFlight m r) ∨
      ((flightEdge p s).taken = s.taken ++ [r] ∧ (flightEdge p s).handshake = .ready) := by
  by_cases h : n < Config.cmdLatency ∨ p.rspReady = false
  · obtain ⟨hhand, htaken⟩ := flightEdge_untaken hflight h
    exact .inl ⟨htaken, _, hhand⟩
  · obtain ⟨hn, hready⟩ := not_or.1 h
    rw [flightEdge_take hflight (Nat.le_of_not_lt hn) (eq_true_of_ne_false hready)]
    exact .inr ⟨rfl, rfl⟩

end

/-- `t` has the registers of `s` and the response `r` in flight, accepted `n` counted cycles ago, and between
the two the host has taken no response and driven everything before `rest`. -/
structure StillInFlight (s : State) (n : Nat) (r : Rsp) (rest : List PinSample) (t : State) : Prop where
  handshake : t.handshake = .inFlight n r
  pins : t.pins = rest
  taken : t.taken = s.taken
  enc : SameEnc s t
  dec : SameDec s t

/-- One stretch of edges without a taken response, and then another, is one such stretch. -/
theorem StillInFlight.trans {s u t : State} {m n : Nat} {r : Rsp} {ps rest : List PinSample}
    (hu : StillInFlight s m r ps u) (ht : StillInFlight u n r rest t) : StillInFlight s n r rest t where
  handshake := ht.handshake
  pins := ht.pins
  taken := ht.taken.trans hu.taken
  enc := sameEnc_trans hu.enc ht.enc
  dec := sameDec_trans hu.dec ht.dec

/-- A step with a command in flight, by the first of the inputs to come. -/
theorem step_flightEdge {s : State} {n : Nat} {r : Rsp} {p : PinSample} {ps : List PinSample}
    (hflight : s.handshake = .inFlight n r) (hpins : s.pins = p :: ps) (hrst : p.rst = false) :
    step s = .next (flightEdge p s.dropPins) := by
  have hsample := State.sample_of_cons hpins
  rw [step_inFlight (by rw [hsample, hrst]) hflight, hsample]

/-- One edge without reset at which the response is not taken. -/
theorem step_untaken {s : State} {n : Nat} {r : Rsp} {p : PinSample} {ps : List PinSample}
    (hflight : s.handshake = .inFlight n r) (hpins : s.pins = p :: ps) (hrst : p.rst = false)
    (h : n < Config.cmdLatency ∨ p.rspReady = false) :
    ∃ t, step s = .next t ∧ StillInFlight s (countAfter n 1) r ps t := by
  obtain ⟨hhand, htaken⟩ := flightEdge_untaken (s := s.dropPins) hflight h
  obtain ⟨-, henc, hdec⟩ := flightEdge_sameRegs p s.dropPins
  exact ⟨_, step_flightEdge hflight hpins hrst, hhand, by simp [hpins], htaken, henc, hdec⟩

/-- The edge at which the host is ready for the presented response takes it, and leaves the block ready (R71
point 4). -/
theorem step_taken {s : State} {n : Nat} {r : Rsp} {p : PinSample} {ps : List PinSample}
    (hflight : s.handshake = .inFlight n r) (hdue : Config.cmdLatency ≤ n) (hpins : s.pins = p :: ps)
    (hrst : p.rst = false) (hready : p.rspReady = true) :
    ∃ t, step s = .next t ∧ t.handshake = .ready ∧ t.taken = s.taken ++ [r] ∧ t.pins = ps ∧
      SameEnc s t ∧ SameDec s t := by
  have htake := flightEdge_take (s := s.dropPins) hflight hdue hready
  obtain ⟨-, henc, hdec⟩ := flightEdge_sameRegs p s.dropPins
  exact ⟨_, step_flightEdge hflight hpins hrst, by rw [htake], by rw [htake]; rfl, by simp [hpins], henc, hdec⟩

/-- Any number of edges without reset at which the response is not taken, because it is not presented before
the last of them or because the host is not ready for it (R71 point 3). -/
theorem runEdges_untaken {s : State} {n : Nat} {r : Rsp} {ps rest : List PinSample}
    (hflight : s.handshake = .inFlight n r) (hpins : s.pins = ps ++ rest) (hrst : ∀ p ∈ ps, p.rst = false)
    (h : n + ps.length ≤ Config.cmdLatency ∨ ∀ p ∈ ps, p.rspReady = false) :
    ∃ t, runEdges ps.length s = .next t ∧ StillInFlight s (countAfter n ps.length) r rest t := by
  induction ps generalizing s n with
  | nil =>
    have hzero : countAfter n 0 = n := by unfold countAfter; omega
    exact ⟨s, rfl, hflight.trans (by rw [List.length_nil, hzero]), hpins, rfl,
      ⟨rfl, rfl⟩, rfl, rfl, rfl, rfl, rfl⟩
  | cons p ps ih =>
    rw [List.forall_mem_cons] at hrst h
    rw [List.length_cons] at h
    obtain ⟨u, hstep, hu⟩ := step_untaken hflight hpins hrst.1 (h.imp (by omega) And.left)
    have hlater : countAfter n 1 + ps.length ≤ Config.cmdLatency ∨ ∀ q ∈ ps, q.rspReady = false :=
      h.imp (fun hle => by rw [countAfter_of_le (by omega)]; omega) And.right
    obtain ⟨t, hrun, ht⟩ := ih hu.handshake hu.pins hrst.2 hlater
    rw [countAfter_succ] at ht
    exact ⟨t, (runEdges_succ hstep).trans hrun, hu.trans ht⟩

end Sys2Proof.Machine

namespace Sys2Proof.Proofs

open Sys2Proof.Machine

/-- Settles O6: every command's fields decode to it, and decoding answers a command only with its own fields;
the other two answers are the two grounds on which a word is not legal. -/
theorem decodeInvertsEncode : Obligations.DecodeInvertsEncode := by
  unfold Obligations.DecodeInvertsEncode
  refine ⟨decode_encode, fun w i h => encode_of_decode h, fun w => ⟨?_, decode_of_wordLegal⟩⟩
  rintro ⟨i, h⟩
  rw [← encode_of_decode h]
  exact wordLegal_encode i

/-- Settles O5: the words of the commands by `decode_encode`, the others by the class of their opcode. -/
theorem decodeFollowsOpcodeMap : Obligations.DecodeFollowsOpcodeMap := by
  unfold Obligations.DecodeFollowsOpcodeMap
  refine ⟨fun d => ⟨decode_encode (.encWrite d), decode_encode (.decWrite d), decode_encode (.lutEnc d),
    decode_encode (.lutDec d)⟩, ⟨decode_encode .encFlush, decode_encode .encClear, decode_encode .decFlush,
    decode_encode .decClear⟩, fun o d hbare hne => ?_, fun o d hbare hoperand => ?_⟩
  · obtain ⟨i, -, -, hdecode⟩ := decodeFields_bare hbare d
    rw [decode_append, hdecode]
    exact decodeBare_eq_error.2 ⟨hne, rfl⟩
  · rw [decode_append]
    exact decodeFields_reserved hbare hoperand d

/-- Settles O8: a list is read element by element, and one element that cannot be read rejects it. -/
theorem pseudoInstructionsExpand : Obligations.PseudoInstructionsExpand := by
  unfold Obligations.PseudoInstructionsExpand
  refine ⟨fun os bs h => ?_, fun cs h => ?_, fun cs h => ?_⟩
  · simp [AsmLine.expand, mapM_eq_some_of_map h, encodeSession]
  · have hread : cs.mapM strByte = some (cs.map fun c => BitVec.ofNat 8 c.toNat) :=
      mapM_eq_some_of_map (by simpa using fun c hc => strByte_eq_some (h c hc))
    simp [AsmLine.expand, hread, decodeSession]
  · obtain ⟨c, hc, hcode⟩ := h
    simp [AsmLine.expand, mapM_eq_none_of_mem hc (strByte_eq_none hcode)]

/-- Settles O9, field by field. -/
theorem responseWordLayout : Obligations.ResponseWordLayout := by
  unfold Obligations.ResponseWordLayout
  intro st out hout
  refine ⟨rspStatus_packRsp st out, ?_, rspOutput_packRsp hout, rspB0_packRsp st out, rspB1_packRsp st out,
    (rsp_append_fields _).symm⟩
  rw [rspCount_packRsp hout, BitVec.toNat_ofNat]
  exact Nat.mod_eq_of_lt (Nat.lt_of_le_of_lt hout (by decide))

/-- Settles O11: a word that runs leaves the response `respond` packed, with output beside OK only. -/
theorem everyResponseIsWellFormed : Obligations.EveryResponseIsWellFormed := by
  unfold Obligations.EveryResponseIsWellFormed
  intro w s t h
  obtain ⟨st, out, u, rfl, -, hout⟩ := runWord_eq_next h
  exact ⟨_, rfl, packRsp_wellFormed hout⟩

/-- Settles O45: the step is an edge with a command in flight. -/
theorem commandWaitsWhileInFlight : Obligations.CommandWaitsWhileInFlight := by
  unfold Obligations.CommandWaitsWhileInFlight
  intro s n r hflight hrst
  obtain ⟨-, henc, hdec⟩ := flightEdge_sameRegs s.sample s.dropPins
  refine ⟨by simp [State.cmdReady, hflight], _, step_inFlight hrst hflight, henc, hdec,
    flightEdge_untaken_or_taken (s := s.dropPins) hflight, ?_⟩
  rw [flightEdge_offered, State.noteOffer_offered]
  rfl

/-- Settles O46: edges at which the response is not taken count up to CMD_LATENCY, and the first at which the
host is ready for the presented response takes it. -/
theorem responseAfterLatencyHeldUntilTaken : Obligations.ResponseAfterLatencyHeldUntilTaken := by
  unfold Obligations.ResponseAfterLatencyHeldUntilTaken
  constructor
  · intro s r ps rest hflight hpins hrst hlt
    obtain ⟨t, hrun, ht⟩ := runEdges_untaken hflight hpins hrst (.inl (by omega))
    rw [countAfter_of_le (by omega), Nat.add_comm] at ht
    refine ⟨t, hrun, ht.handshake, ht.pins, ht.taken, ht.enc, ht.dec, ?_⟩
    rw [State.rspValid_iff ht.handshake]
    omega
  · intro s r ps p rest hpresented hpins hps hrst hready
    obtain ⟨n, hflight, hdue⟩ := State.rspPresented_iff.1 hpresented
    obtain ⟨u, hrun, hu⟩ := runEdges_untaken hflight hpins (fun q hq => (hps q hq).1)
      (.inr fun q hq => (hps q hq).2)
    rw [countAfter_of_ge hdue] at hu
    obtain ⟨t, hstep, hhand, htaken, hrest, henc, hdec⟩ := step_taken hu.handshake hdue hu.pins hrst hready
    exact ⟨u, t, hrun, State.rspPresented_iff.2 ⟨n, hu.handshake, hdue⟩, hu.taken, hstep,
      by rw [htaken, hu.taken], hrest, sameEnc_trans hu.enc henc, sameDec_trans hu.dec hdec,
      State.cmdReady_iff.2 ⟨rfl, hhand⟩, State.rspPresented_of_ready hhand⟩

/-- Settles O4: fixed words and lines, evaluated; the status of 0x1122 by the meaning of `DEC.WRITE` of a code
outside the alphabet. -/
theorem exampleWordsDecode : Obligations.ExampleWordsDecode := by
  unfold Obligations.ExampleWordsDecode
  refine ⟨by decide, by decide, fun s herr => ?_⟩
  have hdecode : decode 0x1122#16 = .ok (.decWrite 0x22#8) := by decide
  have hinvalid : decLut 0x22#8 = none := by decide
  rw [runWord_ok hdecode]
  exact exec_decWrite_nonMember herr hinvalid

/-- Settles O7, by the check of each form. -/
theorem operandFormsAssemble : Obligations.OperandFormsAssemble := by
  unfold Obligations.OperandFormsAssemble
  refine ⟨fun n => Operand.value_number, fun n => Operand.value_number_of_ge, fun c hlo hhi hquote hslash => ?_,
    fun c hbad => ?_⟩
  · exact Operand.value_chr (Operand.wellFormed_chr_iff.2 ⟨⟨hlo, hhi⟩, hquote, hslash⟩)
  · refine Operand.value_of_not_wellFormed (eq_false_of_ne_true fun hgood => ?_)
    obtain ⟨⟨hlo, hhi⟩, hquote, hslash⟩ := Operand.wellFormed_chr_iff.1 hgood
    omega

/-- Settles O43: an accepting edge runs the word held stable, on the state with the sample consumed. -/
theorem stepRunsDecodedCommand : Obligations.StepRunsDecodedCommand := by
  unfold Obligations.StepRunsDecodedCommand
  refine ⟨fun s i hreset hhand hrst hvalid hstable hdecode => ?_,
    fun s e hreset hhand hrst hvalid hstable hdecode => ?_, fun s w i hdecode => ?_⟩
  · rw [step_accept_stable hreset hhand hrst hvalid hstable, runWord_ok hdecode]
  · rw [step_accept_stable hreset hhand hrst hvalid hstable, runWord_error hdecode]
  · have hword : BitVec.ofNat 16 (w % 2 ^ 16) = BitVec.ofNat 16 w := BitVec.eq_of_toNat_eq (by simp)
    rw [State.withFetchWord, step_presenting, hword, runWord_ok hdecode]

end Sys2Proof.Proofs
end

section
/-! SUPPORT. The alphabet family (40_alphabet.md): both tables by one closed form of the alphabet (R100), from
which the reverse table inverts the forward one (R103), and the answers of the lookup commands (R104, R105). -/

namespace Sys2Proof.Machine

/-! ## The tables by the closed form -/

/-- The code of the symbol of value `i`, for `i` in 0..92 (R100): printable ASCII without 0x22 and 0x5C. -/
def symbolCode (i : Nat) : Nat := if i ≤ 1 then 0x20 + i else if i ≤ 58 then 0x21 + i else 0x22 + i

theorem symbolCode_lt {i : Nat} (h : i < 93) : symbolCode i < 2 ^ 8 := by
  unfold symbolCode
  split_ifs <;> omega

/-- The listed rows are the closed form (R100). -/
theorem alphabet_eq_map : alphabet = (List.range 93).map fun i => BitVec.ofNat 8 (symbolCode i) := by decide

theorem encLut_eq_symbolCode {i : Nat} (h : i < 93) : encLut i = some (BitVec.ofNat 8 (symbolCode i)) := by
  simp [encLut, alphabet_eq_map, h]

/-- The forward table as a relation on numbers (R100, R51). -/
theorem encLut_eq_some_iff {i : Nat} {c : Byte} : encLut i = some c ↔ i < 93 ∧ c.toNat = symbolCode i := by
  refine ⟨fun h => ?_, fun ⟨hi, hc⟩ => ?_⟩
  · have hi := lt_of_encLut h
    rw [encLut_eq_symbolCode hi, Option.some.injEq] at h
    rw [← h, BitVec.toNat_ofNat, Nat.mod_eq_of_lt (symbolCode_lt hi)]
    exact ⟨hi, rfl⟩
  · rw [encLut_eq_symbolCode hi, ← hc, BitVec.ofNat_toNat, BitVec.setWidth_eq]

/-- The reverse table as a relation on numbers: the ranges of R102 are those of the closed form, each shifted
back. -/
theorem decLut_eq_some_iff {c : Byte} {v : SymVal} :
    decLut c = some v ↔ v.toNat < 93 ∧ c.toNat = symbolCode v.toNat := by
  unfold decLut symbolCode
  split_ifs <;> simp [BitVec.toNat_eq] <;> omega

/-- `DEC_LUT` holds `VALUE(v)` at `c` exactly where `ENC_LUT` holds `c` at `v` (R103). -/
theorem decLut_eq_some_iff_encLut {c : Byte} {v : SymVal} : decLut c = some v ↔ encLut v.toNat = some c := by
  rw [decLut_eq_some_iff, encLut_eq_some_iff]

/-! ## The lookup commands -/

theorem exec_lutEnc_of_entry {k b : Byte} (h : encLut k.toNat = some b) (s : State) :
    exec (.lutEnc k) s = .next (s.respond .ok [b]) := by
  simp [exec, execLutEnc, h]

theorem exec_lutEnc_of_noEntry {k : Byte} (h : encLut k.toNat = none) (s : State) :
    exec (.lutEnc k) s = .next (s.respond .lutRange []) := by
  simp [exec, execLutEnc, h, raise]

theorem exec_lutDec_of_member {c : Byte} {v : SymVal} (h : decLut c = some v) (s : State) :
    exec (.lutDec c) s = .next (s.respond .ok [BitVec.ofNat 8 v.toNat]) := by
  simp [exec, execLutDec, h]

theorem exec_lutDec_of_nonMember {c : Byte} (h : decLut c = none) (s : State) :
    exec (.lutDec c) s = .next (s.respond .invalidSymbol []) := by
  simp [exec, execLutDec, h, raise]

end Sys2Proof.Machine

namespace Sys2Proof.Proofs

open Sys2Proof.Machine

/-- Settles O2: below 93 by the closed form of the listed rows, from there on by their number. -/
theorem encLutClosedForm : Obligations.EncLutClosedForm := by
  unfold Obligations.EncLutClosedForm
  exact ⟨fun _ => encLut_eq_symbolCode, fun _ => encLut_of_ge⟩

/-- Settles O3: the two tables are converse relations, so a code with a value is a forward entry. -/
theorem tablesAreInverse : Obligations.TablesAreInverse := by
  unfold Obligations.TablesAreInverse
  refine ⟨fun i hi => ?_, fun c hc => ?_⟩
  · obtain ⟨b, hb⟩ := encLut_of_lt hi
    have hvalue : (BitVec.ofNat 7 i).toNat = i := Nat.mod_eq_of_lt (by omega)
    exact ⟨b, hb, decLut_eq_some_iff_encLut.2 (by rwa [hvalue])⟩
  · exact Option.eq_none_iff_forall_ne_some.2 fun v hv => hc v.toNat (decLut_eq_some_iff_encLut.1 hv)

/-- Settles O38: the index holds an entry exactly below 93. -/
theorem lutEncResult : Obligations.LutEncResult := by
  unfold Obligations.LutEncResult
  refine fun k s => ⟨rfl, fun hk => ?_, fun hk => exec_lutEnc_of_noEntry (encLut_of_ge hk) s⟩
  obtain ⟨b, hb⟩ := encLut_of_lt hk
  exact ⟨b, hb, exec_lutEnc_of_entry hb s⟩

/-- Settles O39, by what the reverse table holds at the code. -/
theorem lutDecResult : Obligations.LutDecResult := by
  unfold Obligations.LutDecResult
  exact fun c s => ⟨rfl, fun v hv => ⟨decLut_le hv, exec_lutDec_of_member hv s⟩,
    fun hc => exec_lutDec_of_nonMember hc s⟩

end Sys2Proof.Proofs
end

section
/-! SUPPORT. The encoder family (41_encoder.md).  ENC.WRITE and ENC.FLUSH are arithmetic on the pending bits: a
packed word takes 13 or 14 of them, and a flush takes what is left.  From that come the answers of the three
commands.  Two inductions over runs rest on those answers: one carries two runs from states with the same
encoder registers, the other an account of 13 bits per pair of symbols. -/

namespace Sys2Proof

/-- A FLUSH or CLEAR word with nonzero DATA decodes to nothing (R76 (b)). -/
theorem decode_nonzeroData {o d : Byte} (ho : o ∈ bareOpcodes) (hd : d ≠ 0#8) :
    decode (o ++ d) = .error (.nonzeroData o d) := by
  obtain ⟨-, -, hbare, -⟩ := Proofs.decodeFollowsOpcodeMap
  exact hbare o d ho hd

end Sys2Proof

namespace Sys2Proof.Machine

/-! ## Packed words -/

/-- The width of the packed word is that of its candidate: 14 bits when short, 13 otherwise (R123). -/
theorem wordWidth_packWord (a : Acc) (p : Pend) :
    wordWidth (packWord a p).word = if a.toNat % 8192 < 457 then 14 else 13 := by
  by_cases hshort : a.toNat % 8192 < 457
  · obtain ⟨hword, -, -⟩ := packWord_short a p hshort
    simp [wordWidth, isShort, Config.wordFull, hword, hshort]
  · obtain ⟨hword, -, -⟩ := packWord_full a p (by omega)
    simp [wordWidth, isShort, Config.wordFull, hword, hshort]

/-- Packing a due word takes as many bits as the word is wide from the low end, and the count does not wrap
(R121, R123). -/
theorem packWord_of_wordWidth {a : Acc} {p : Pend} {k : Nat} (hdue : 13 < p.toNat)
    (hk : wordWidth (packWord a p).word = k) :
    (packWord a p).word.toNat = a.toNat % 2 ^ k ∧ (packWord a p).acc = BitVec.ofNat 21 (a.toNat / 2 ^ k) ∧
      (packWord a p).pend = BitVec.ofNat 5 (p.toNat - k) := by
  rw [wordWidth_packWord] at hk
  subst hk
  split_ifs with hshort
  · obtain ⟨hword, hacc, hpend⟩ := packWord_short a p hshort
    exact ⟨hword, BitVec.eq_of_toNat_eq (by rw [hacc, BitVec.toNat_ofNat]; omega), by rw [hpend]; bv_omega⟩
  · obtain ⟨hword, hacc, hpend⟩ := packWord_full a p (by omega)
    exact ⟨hword, BitVec.eq_of_toNat_eq (by rw [hacc, BitVec.toNat_ofNat]; omega), by rw [hpend]; bv_omega⟩

/-- At most 13 pending bits stay pending (R121). -/
theorem packIfDue_of_le {a : Acc} {p : Pend} (h : p.toNat ≤ 13) (s : State) :
    packIfDue a p s = .next ((s.setEncoder a p).respond .ok []) := by
  simp [packIfDue, wordDue, h]

/-- From 14 pending bits on, one word of `k` bits leaves the low end as its two symbols (R121, R124). -/
theorem packIfDue_of_gt {a : Acc} {p : Pend} {k : Nat} (hdue : 13 < p.toNat)
    (hk : wordWidth (packWord a p).word = k) (s : State) :
    ∃ lo hi, encLut (a.toNat % 2 ^ k % 93) = some lo ∧ encLut (a.toNat % 2 ^ k / 93) = some hi ∧
      packIfDue a p s = .next ((s.setEncoder (BitVec.ofNat 21 (a.toNat / 2 ^ k))
        (BitVec.ofNat 5 (p.toNat - k))).respond .ok [lo, hi]) := by
  obtain ⟨hword, hacc, hpend⟩ := packWord_of_wordWidth hdue hk
  obtain ⟨lo, hi, hlo, hhi, hpair⟩ := symbolPair_of_le (packWord_le a p)
  rw [hword] at hlo hhi
  exact ⟨lo, hi, hlo, hhi, by simp [packIfDue, wordDue, hdue, hpair, respondSymbols, hacc, hpend]⟩

/-! ## Flushed symbols -/

/-- The symbols of a flush, for a value up to `WORD_MAX`: none when nothing is pending, both when more than 8
bits are or the value is at least 93, and the low one alone otherwise (R125, R126). -/
theorem flushSymbols_eq {a : Acc} (p : Pend) (ha : a.toNat ≤ 8648) :
    ∃ lo hi, encLut (a.toNat % 93) = some lo ∧ encLut (a.toNat / 93) = some hi ∧
      flushSymbols a p = some (if p.toNat = 0 then []
        else if 8 < p.toNat ∨ 93 ≤ a.toNat then [lo, hi] else [lo]) := by
  obtain ⟨lo, hi, hlo, hhi, hpair⟩ := symbolPair_of_le ha
  have hlone : loneSymbol a.toNat = some [lo] := by simp [loneSymbol, hlo]
  have hzero : p = 0#5 ↔ p.toNat = 0 := BitVec.toNat_inj.symm
  refine ⟨lo, hi, hlo, hhi, ?_⟩
  simp only [flushSymbols, flushNeedsHigh, hzero, hpair, hlone, Bool.or_eq_true, decide_eq_true_eq]
  split_ifs <;> rfl

/-- Under R23 the pending bits are a value below 2^13, which a pair of symbols holds. -/
theorem encAcc_le_wordMax {s : State} (hs : EncInv s) : s.encAcc.toNat ≤ 8648 := by
  obtain ⟨hpend, hacc⟩ := hs
  have hpow : 2 ^ s.encPend.toNat ≤ 2 ^ 13 := Nat.pow_le_pow_right (by decide) hpend
  omega

/-- A value of at least 93 takes at least 7 bits. -/
theorem seven_le_of_lt_two_pow {a p : Nat} (ha : a < 2 ^ p) (h : 93 ≤ a) : 7 ≤ p := by
  by_contra hp
  have hpow : 2 ^ p ≤ 2 ^ 6 := Nat.pow_le_pow_right (by decide) (by omega)
  omega

/-! ## Alphabet members -/

/-- Every byte is a member of the alphabet (R100). -/
def InAlphabet (out : List Byte) : Prop := ∀ b ∈ out, ∃ k, k < 93 ∧ encLut k = some b

theorem inAlphabet_nil : InAlphabet [] := nofun

theorem inAlphabet_cons {k : Nat} {b : Byte} {out : List Byte} (hb : encLut k = some b) (hout : InAlphabet out) :
    InAlphabet (b :: out) :=
  List.forall_mem_cons.2 ⟨⟨k, lt_of_encLut hb, hb⟩, hout⟩

theorem symbolPair_inAlphabet {n : Nat} {out : List Byte} (h : symbolPair n = some out) : InAlphabet out := by
  unfold symbolPair at h
  split at h
  next hlo hhi => cases h; exact inAlphabet_cons hlo (inAlphabet_cons hhi inAlphabet_nil)
  next => cases h

theorem loneSymbol_inAlphabet {n : Nat} {out : List Byte} (h : loneSymbol n = some out) : InAlphabet out := by
  obtain ⟨lo, hlo, hlone⟩ := loneSymbol_eq n
  cases hlone.symm.trans h
  exact inAlphabet_cons hlo inAlphabet_nil

theorem flushSymbols_inAlphabet {a : Acc} {p : Pend} {out : List Byte} (h : flushSymbols a p = some out) :
    InAlphabet out := by
  unfold flushSymbols at h
  split_ifs at h
  · cases h; exact inAlphabet_nil
  · exact symbolPair_inAlphabet h
  · exact loneSymbol_inAlphabet h

/-! ## The answers of the encoder commands -/

@[simp] theorem responseOf_respond (st : Status) (out : List Byte) (s : State) :
    responseOf (.next (s.respond st out)) = some (packRsp st out) := rfl

/-- Inversion of the encoder commands, in every state: ENC_ACC and ENC_PEND are written, and the response is OK
with at most two bytes, all of them members of the alphabet (R128, R130, R131). -/
theorem exec_enc_eq_next {i : Instr} {s t : State} (hi : isEnc i = true) (h : exec i s = .next t) :
    ∃ out a p, t = (s.setEncoder a p).respond .ok out ∧ out.length ≤ 2 ∧ InAlphabet out := by
  cases i with
  | encWrite b =>
    simp only [exec, execEncWrite, packIfDue] at h
    split at h
    · obtain ⟨out, hout, rfl⟩ := respondSymbols_eq_next.1 h
      exact ⟨out, _, _, rfl, (symbolPair_length hout).le, symbolPair_inAlphabet hout⟩
    · cases h; exact ⟨[], _, _, rfl, by simp, inAlphabet_nil⟩
  | encFlush =>
    obtain ⟨out, hout, rfl⟩ := respondSymbols_eq_next.1 h
    exact ⟨out, _, _, rfl, flushSymbols_length hout, flushSymbols_inAlphabet hout⟩
  | encClear => cases h; exact ⟨[], _, _, rfl, by simp, inAlphabet_nil⟩
  | decWrite _ | decFlush | decClear | lutEnc _ | lutDec _ => nomatch hi

section

variable {s : State} (hs : EncInv s)
include hs

/-- ENC.FLUSH under R23: the symbols of R126, and a fresh encoder. -/
theorem exec_encFlush_of_encInv :
    ∃ lo hi, encLut (s.encAcc.toNat % 93) = some lo ∧ encLut (s.encAcc.toNat / 93) = some hi ∧
      exec .encFlush s = .next ((s.setEncoder 0#21 0#5).respond .ok (if s.encPend.toNat = 0 then []
        else if 8 < s.encPend.toNat ∨ 93 ≤ s.encAcc.toNat then [lo, hi] else [lo])) := by
  obtain ⟨lo, hi, hlo, hhi, hflush⟩ := flushSymbols_eq s.encPend (encAcc_le_wordMax hs)
  exact ⟨lo, hi, hlo, hhi, by simp only [exec, execEncFlush, hflush, respondSymbols]⟩

/-- Under R23 every encoder command answers a next state (R128). -/
theorem exec_enc_of_encInv {i : Instr} (hi : isEnc i = true) : ∃ t, exec i s = .next t := by
  cases i with
  | encWrite b =>
    obtain ⟨out, hpack⟩ := packIfDue_eq (appendBits s.encAcc s.encPend b) (s.encPend + 8#5) s
    exact ⟨_, hpack⟩
  | encFlush =>
    obtain ⟨_, _, -, -, hflush⟩ := exec_encFlush_of_encInv hs
    exact ⟨_, hflush⟩
  | encClear => exact ⟨_, rfl⟩
  | decWrite _ | decFlush | decClear | lutEnc _ | lutDec _ => nomatch hi

/-- The bits ENC.WRITE works on under R23, as numbers: the byte above the pending bits, and their count. -/
theorem appendByte_toNat (b : Byte) :
    (appendBits s.encAcc s.encPend b).toNat = s.encAcc.toNat + b.toNat * 2 ^ s.encPend.toNat ∧
      (s.encPend + 8#5).toNat = s.encPend.toNat + 8 := by
  obtain ⟨hpend, hacc⟩ := hs
  exact ⟨appendBits_toNat _ _ b hacc (by omega), encPend_add_eight hpend⟩

/-- ENC.WRITE emits two symbols when a word is due and none otherwise (R130), and every symbol emitted takes
6.5 bits at least. -/
theorem exec_encWrite_emits (b : Byte) :
    ∃ out a p, exec (.encWrite b) s = .next ((s.setEncoder a p).respond .ok out) ∧ out.length ≤ 2 ∧
      out.length = (if 6 ≤ s.encPend.toNat then 2 else 0) ∧
      13 * out.length + 2 * p.toNat ≤ 2 * s.encPend.toNat + 16 := by
  obtain ⟨-, hcount⟩ := appendByte_toNat hs b
  obtain ⟨hpend, -⟩ := hs
  by_cases hdue : 6 ≤ s.encPend.toNat
  · obtain ⟨lo, hi, -, -, hpack⟩ :=
      packIfDue_of_gt (a := appendBits s.encAcc s.encPend b) (p := s.encPend + 8#5) (by omega) rfl s
    have ⟨hwidth, _⟩ := wordWidth_bounds (packWord (appendBits s.encAcc s.encPend b) (s.encPend + 8#5)).word
    refine ⟨[lo, hi], _, _, hpack, le_rfl, (if_pos hdue).symm, ?_⟩
    rw [BitVec.toNat_ofNat, hcount]
    simp only [List.length_cons, List.length_nil]
    omega
  · refine ⟨[], _, _, packIfDue_of_le (by omega) s, Nat.zero_le _, (if_neg hdue).symm, ?_⟩
    simp only [List.length_nil]
    omega

/-- The symbols ENC.FLUSH emits, counted (R126, R130). -/
theorem exec_encFlush_emits :
    ∃ out, exec .encFlush s = .next ((s.setEncoder 0#21 0#5).respond .ok out) ∧ out.length ≤ 2 ∧
      out.length = if s.encPend.toNat = 0 then 0
        else if 8 < s.encPend.toNat ∨ 93 ≤ s.encAcc.toNat then 2 else 1 := by
  obtain ⟨lo, hi, -, -, hflush⟩ := exec_encFlush_of_encInv hs
  refine ⟨_, hflush, ?_⟩
  split_ifs <;> simp

end

/-! ## Runs of encoder commands -/

/-- The transaction of a command takes the response the command put in flight. -/
theorem transact_encode {i : Instr} {s u : State} {st : Status} {out : List Byte}
    (h : exec i s = .next (u.respond st out)) :
    transact (encode i) s = .next (u.respond st out).takeRsp :=
  transact_next ((runWord_ok (decode_encode i) s).trans h)

/-- Taking a response writes no encoder register. -/
theorem takeRsp_keeps_encInv {s : State} (hs : EncInv s) : EncInv s.takeRsp :=
  encInv_of_sameEnc ⟨State.takeRsp_encAcc s, State.takeRsp_encPend s⟩ hs

/-- What a run took since its start is what it added. -/
theorem newRsps_of_taken {s t : State} {rs : List Rsp} (h : t.taken = s.taken ++ rs) : newRsps s t = rs := by
  rw [newRsps, h, List.drop_left]

/-- An encoder command in two states with the same encoder registers, which meet R23: one and the same response
is taken, and the encoder registers agree again and meet R23 (R129). -/
theorem transact_enc_lockstep {i : Instr} {s s' : State} (hi : isEnc i = true) (hs : EncInv s)
    (hsame : SameEnc s s') :
    ∃ t t' r, transact (encode i) s = .next t ∧ transact (encode i) s' = .next t' ∧
      t.taken = s.taken ++ [r] ∧ t'.taken = s'.taken ++ [r] ∧ EncInv t ∧ SameEnc t t' := by
  obtain ⟨u, hu⟩ := exec_enc_of_encInv hs hi
  obtain ⟨u', hu'⟩ := exec_enc_of_encInv (encInv_of_sameEnc hsame hs) hi
  have hinv := takeRsp_keeps_encInv (exec_keeps_encInv hs hu)
  have hleft := exec_enc_next hi hsame hu hu'
  obtain ⟨out, a, p, rfl, -, -⟩ := exec_enc_eq_next hi hu
  subst hleft
  exact ⟨_, _, packRsp .ok out, transact_encode hu, transact_encode (u := s'.setEncoder a p) hu',
    rfl, rfl, hinv, rfl, rfl⟩

/-- The same of a run of encoder commands, by induction over the commands. -/
theorem runWords_enc_lockstep {is : List Instr} {s s' : State} (his : ∀ i ∈ is, isEnc i = true)
    (hs : EncInv s) (hsame : SameEnc s s') :
    ∃ t t' rs, runWords (wordsOf is) s = .next t ∧ runWords (wordsOf is) s' = .next t' ∧
      t.taken = s.taken ++ rs ∧ t'.taken = s'.taken ++ rs ∧ EncInv t ∧ SameEnc t t' := by
  induction is generalizing s s' with
  | nil => exact ⟨s, s', [], rfl, rfl, by simp, by simp, hs, hsame⟩
  | cons i is ih =>
    obtain ⟨hi, his⟩ := List.forall_mem_cons.1 his
    obtain ⟨u, u', r, hu, hu', htaken, htaken', hinv, hsame⟩ := transact_enc_lockstep hi hs hsame
    obtain ⟨t, t', rs, hrun, hrun', hrs, hrs', hleft⟩ := ih his hinv hsame
    exact ⟨t, t', r :: rs, (runWords_cons hu).trans hrun, (runWords_cons hu').trans hrun',
      by simp [hrs, htaken], by simp [hrs', htaken'], hleft⟩

/-- ENC.FLUSH emits at most what its pending bits pay for: 12 above two per bit, at 13 per symbol.  A second
symbol is emitted from 7 pending bits on, a first one from 1 on. -/
theorem flush_count_bound {a p n : Nat} (ha : a < 2 ^ p)
    (hn : n = if p = 0 then 0 else if 8 < p ∨ 93 ≤ a then 2 else 1) : 13 * n ≤ 2 * p + 12 := by
  have hseven := seven_le_of_lt_two_pow ha
  split_ifs at hn <;> omega

/-- The account of a run of writes and a flush: 13 for every symbol is paid by 2 for every bit pending at the
start, 16 for every byte, and 12 once for the flush (R132). -/
theorem runWords_writes_flush_account {s : State} (hs : EncInv s) (bs : List Byte) :
    ∃ t rs, runWords (wordsOf (bs.map Instr.encWrite ++ [.encFlush])) s = .next t ∧
      t.taken = s.taken ++ rs ∧
      13 * (outputs rs).length ≤ 2 * s.encPend.toNat + 16 * bs.length + 12 := by
  induction bs generalizing s with
  | nil =>
    obtain ⟨out, hflush, hle, hlen⟩ := exec_encFlush_emits hs
    obtain ⟨-, hacc⟩ := hs
    refine ⟨_, [packRsp .ok out], runWords_cons (transact_encode hflush), rfl, ?_⟩
    simpa [outputs, rspOutput_packRsp hle] using flush_count_bound hacc hlen
  | cons b bs ih =>
    obtain ⟨out, a, p, hwrite, hle, -, hpaid⟩ := exec_encWrite_emits hs b
    obtain ⟨t, rs, hrun, htaken, hbound⟩ := ih (takeRsp_keeps_encInv (exec_keeps_encInv hs hwrite))
    refine ⟨t, packRsp .ok out :: rs, (runWords_cons (transact_encode hwrite)).trans hrun, by simp [htaken], ?_⟩
    simp only [outputs, List.flatMap_cons, rspOutput_packRsp hle, List.length_append, List.length_cons,
      State.takeRsp_encPend, State.respond_encPend, State.setEncoder_encPend] at hbound ⊢
    omega

end Sys2Proof.Machine

namespace Sys2Proof.Proofs

open Sys2Proof.Machine

/-- Settles O25: the two runs go in lockstep, one response at a time. -/
theorem encodingDependsOnEncoderOnly : Obligations.EncodingDependsOnEncoderOnly := by
  unfold Obligations.EncodingDependsOnEncoderOnly
  intro s s' bs hs hsame
  have henc : ∀ i ∈ bs.map Instr.encWrite ++ [.encFlush], isEnc i = true := by
    simp only [List.forall_mem_append, List.forall_mem_map, List.forall_mem_singleton]
    exact ⟨fun _ _ => rfl, rfl⟩
  obtain ⟨t, t', rs, hrun, hrun', htaken, htaken', -⟩ := runWords_enc_lockstep henc hs hsame
  exact ⟨t, t', hrun, hrun', (newRsps_of_taken htaken).trans (newRsps_of_taken htaken').symm⟩

/-- Settles O26: ENC.CLEAR takes a response without output and leaves no bit pending, from where the account of
the writes and the flush is 13 per symbol against 16 per byte and 12. -/
theorem encodeCapacityBound : Obligations.EncodeCapacityBound := by
  unfold Obligations.EncodeCapacityBound
  intro s bs
  have hclear : exec .encClear s = .next ((s.setEncoder 0#21 0#5).respond .ok []) := rfl
  obtain ⟨t, rs, hrun, htaken, hbound⟩ := runWords_writes_flush_account
    (s := ((s.setEncoder 0#21 0#5).respond .ok []).takeRsp) ⟨Nat.zero_le _, Nat.one_pos⟩ bs
  refine ⟨t, (runWords_cons (transact_encode hclear)).trans hrun, ?_⟩
  have htaken : t.taken = s.taken ++ packRsp .ok [] :: rs := by simp [htaken]
  have hbound : 13 * (outputs rs).length ≤ 16 * bs.length + 12 := by simpa using hbound
  have hquiet : outputs (packRsp .ok [] :: rs) = outputs rs := rfl
  rw [newRsps_of_taken htaken, hquiet, maxEncodedLen, Nat.le_div_iff_mul_le (by decide)]
  omega

/-- Settles O17: no word is due, or one leaves from a full or from a short candidate. -/
theorem encWriteResult : Obligations.EncWriteResult := by
  unfold Obligations.EncWriteResult
  refine fun s b => ⟨rfl, fun hs a p ha hp => ?_⟩
  obtain ⟨hacc, hcount⟩ := appendByte_toNat hs b
  rw [← hacc] at ha
  rw [← hcount] at hp
  subst ha hp
  refine ⟨fun hle => ?_, fun hdue hfull => ?_, fun hdue hshort => ?_⟩
  · rw [BitVec.ofNat_toNat, BitVec.setWidth_eq, BitVec.ofNat_toNat, BitVec.setWidth_eq]
    exact packIfDue_of_le hle s
  · exact packIfDue_of_gt hdue ((wordWidth_packWord _ _).trans (if_neg hfull.not_gt)) s
  · exact packIfDue_of_gt hdue ((wordWidth_packWord _ _).trans (if_pos hshort)) s

/-- Settles O18: the numbers of a short and of a full candidate. -/
theorem packedWordClasses : Obligations.PackedWordClasses := by
  unfold Obligations.PackedWordClasses
  rintro a p w cand bit hw rfl rfl
  by_cases hshort : a.toNat % 8192 < 457
  · obtain ⟨hword, -, -⟩ := packWord_short a p hshort
    omega
  · obtain ⟨hword, -, -⟩ := packWord_full a p (by omega)
    omega

/-- Settles O19: the cases of R126 are those of `exec_encFlush_of_encInv`, and a value below 93 has the high
symbol of 0, a space. -/
theorem encFlushResult : Obligations.EncFlushResult := by
  unfold Obligations.EncFlushResult
  refine ⟨rfl, fun d hd => decode_nonzeroData (by decide) hd, ?_⟩
  rintro s hs a p rfl rfl
  obtain ⟨lo, hi, hlo, hhi, hflush⟩ := exec_encFlush_of_encInv hs
  obtain ⟨-, hacc⟩ := hs
  refine ⟨lo, hi, hlo, hhi, fun hp => ?_, fun hp hp8 ha => ⟨?_, ?_⟩, fun hp ha => ?_, fun hp => ⟨?_, fun ha => ?_⟩⟩
  · rw [hflush, if_pos hp]; rfl
  · rwa [Nat.mod_eq_of_lt ha] at hlo
  · rw [hflush, if_neg (by omega), if_neg (by omega)]; rfl
  · have hseven := seven_le_of_lt_two_pow hacc ha
    rw [hflush, if_neg (by omega), if_pos (.inr ha)]; rfl
  · rw [hflush, if_neg (by omega), if_pos (.inl hp)]; rfl
  · rw [Nat.div_eq_of_lt ha] at hhi
    exact (Option.some.inj hhi).symm

/-- Settles O21: a command that runs answers OK, and under R23 every encoder command runs; nonzero DATA beside
FLUSH or CLEAR is a reserved word. -/
theorem encoderNeverFails : Obligations.EncoderNeverFails := by
  unfold Obligations.EncoderNeverFails
  refine ⟨fun i s hi hs => ?_, fun d s hd => ⟨runWord_error (decode_nonzeroData (by decide) hd) s,
    runWord_error (decode_nonzeroData (by decide) hd) s⟩⟩
  obtain ⟨t, h⟩ := exec_enc_of_encInv hs hi
  obtain ⟨out, a, p, rfl, -, -⟩ := exec_enc_eq_next hi h
  exact ⟨_, _, h, rfl, rspStatus_packRsp .ok out⟩

/-- Settles O22, by the counted answers of ENC.WRITE and ENC.FLUSH. -/
theorem encoderOutputCounts : Obligations.EncoderOutputCounts := by
  unfold Obligations.EncoderOutputCounts
  refine fun s hs => ⟨fun b => ?_, ?_, ⟨_, rfl, rfl⟩⟩
  · obtain ⟨out, a, p, hwrite, hle, hlen, -⟩ := exec_encWrite_emits hs b
    exact ⟨packRsp .ok out, by rw [hwrite, responseOf_respond], by rw [rspOutput_packRsp hle, hlen]⟩
  · obtain ⟨out, hflush, hle, hlen⟩ := exec_encFlush_emits hs
    exact ⟨packRsp .ok out, by rw [hflush, responseOf_respond], by rw [rspOutput_packRsp hle, hlen]⟩

/-- Settles O23: a response comes with a next state, and there every byte was read from the table. -/
theorem encoderOutputIsInAlphabet : Obligations.EncoderOutputIsInAlphabet := by
  unfold Obligations.EncoderOutputIsInAlphabet
  intro i s r hi hr
  cases h : exec i s with
  | next t =>
    obtain ⟨out, a, p, rfl, hle, hmem⟩ := exec_enc_eq_next hi h
    rw [h, responseOf_respond, Option.some.injEq] at hr
    rw [← hr, rspOutput_packRsp hle]
    exact hmem
  | fault e => rw [h] at hr; cases hr
  | refused e => rw [h] at hr; cases hr

/-- Settles O20: ENC.CLEAR writes constants, whatever the state. -/
theorem encClearResult : Obligations.EncClearResult := by
  unfold Obligations.EncClearResult
  exact ⟨rfl, fun d hd => decode_nonzeroData (by decide) hd, fun s => rfl⟩

end Sys2Proof.Proofs
end

section
/-! SUPPORT. The decoder family (42_decoder.md).  DEC.WRITE of a high symbol is arithmetic on the pending bits:
the word joins them, and the whole bytes among them leave.  The round trip follows both units in step: the
bits pending in the decoder with those pending in the encoder above them are the bytes not given back yet, and
each byte written joins at the high end while the decoder's output leaves at the low end. -/

namespace Sys2Proof.Machine

/-! ## The bytes of a number -/

/-- The `n` low bytes of a number, lowest first: the order in which the decoder gives them out (R55). -/
def lowBytes : Nat → Nat → List Byte
  | 0, _ => []
  | n + 1, x => BitVec.ofNat 8 x :: lowBytes n (x / 256)

@[simp] theorem lowBytes_zero (x : Nat) : lowBytes 0 x = [] := rfl

@[simp] theorem lowBytes_succ (n x : Nat) : lowBytes (n + 1) x = BitVec.ofNat 8 x :: lowBytes n (x / 256) := rfl

@[simp] theorem lowBytes_length (n x : Nat) : (lowBytes n x).length = n := by
  induction n generalizing x with
  | zero => rfl
  | succ n ih => simp [ih]

/-- A number put together above its `n`-th byte: the low bytes are those of the low part, the others those of
what is left of it with the high part. -/
theorem lowBytes_add (n m x c : Nat) :
    lowBytes (n + m) (x + c * 256 ^ n) = lowBytes n x ++ lowBytes m (x / 256 ^ n + c) := by
  induction n generalizing x with
  | zero => simp
  | succ n ih =>
    have hpow : c * 256 ^ (n + 1) = c * 256 ^ n * 256 := by rw [Nat.pow_succ, Nat.mul_assoc]
    have hlow : BitVec.ofNat 8 (x + c * 256 ^ n * 256) = BitVec.ofNat 8 x :=
      BitVec.eq_of_toNat_eq (by rw [BitVec.toNat_ofNat, BitVec.toNat_ofNat]; omega)
    rw [hpow, Nat.add_right_comm, lowBytes_succ, hlow, Nat.add_mul_div_right _ _ (by decide), ih,
      Nat.div_div_eq_div_mul, Nat.pow_succ']
    rfl

/-- Releasing bytes takes every whole byte among the pending bits, as far as the fuel goes (R141, R144). -/
theorem releaseBytes_eq {f : Nat} {a : Acc} {p : Pend} (hf : p.toNat / 8 ≤ f) :
    releaseBytes f a p =
      { bytes := lowBytes (p.toNat / 8) a.toNat
        acc := BitVec.ofNat 21 (a.toNat / 256 ^ (p.toNat / 8))
        pend := BitVec.ofNat 5 (p.toNat % 8) } := by
  induction f generalizing a p with
  | zero =>
    rw [releaseBytes_lt (by omega), Nat.div_eq_of_lt (by omega), Nat.mod_eq_of_lt (by omega)]
    simp
  | succ f ih =>
    by_cases h8 : 8 ≤ p.toNat
    · have hsub := pend_sub_eight h8
      have hdiv : p.toNat / 8 = (p.toNat - 8) / 8 + 1 := by omega
      have hbyte : a.extractLsb' 0 8 = BitVec.ofNat 8 a.toNat :=
        BitVec.eq_of_toNat_eq (by simp)
      have hshift : (a >>> 8).toNat = a.toNat / 256 := by rw [BitVec.toNat_ushiftRight, Nat.shiftRight_eq_div_pow]
      rw [releaseBytes_ge h8, ih (by omega), hsub, hdiv, hbyte, hshift, lowBytes_succ, Nat.div_div_eq_div_mul,
        ← Nat.pow_succ', ← Nat.mod_eq_sub_mod h8]
    · rw [releaseBytes_lt (by omega), Nat.div_eq_of_lt (by omega), Nat.mod_eq_of_lt (by omega)]
      simp

/-! ## Words and their widths -/

/-- The width of a word by its number (R143). -/
theorem wordWidth_eq (w : PackedWord) : wordWidth w = if w.toNat % 8192 < 457 then 14 else 13 := by
  simp [wordWidth, isShort, Config.wordFull]

/-- What packing takes and what it leaves make up the pending bits (R123). -/
theorem packWord_account {a : Acc} {p : Pend} (hdue : 13 < p.toNat) :
    (packWord a p).pend.toNat + wordWidth (packWord a p).word = p.toNat ∧
      a.toNat = (packWord a p).word.toNat + (packWord a p).acc.toNat * 2 ^ wordWidth (packWord a p).word := by
  have ⟨_, hwidth⟩ := wordWidth_bounds (packWord a p).word
  obtain ⟨hword, hacc, hpend⟩ := packWord_of_wordWidth (a := a) hdue rfl
  have hrest : a.toNat / 2 ^ wordWidth (packWord a p).word < 2 ^ 21 :=
    Nat.lt_of_le_of_lt (Nat.div_le_self _ _) a.isLt
  constructor
  · rw [hpend, BitVec.toNat_ofNat]; omega
  · rw [hacc, BitVec.toNat_ofNat, Nat.mod_eq_of_lt hrest, hword, Nat.mul_comm, Nat.mod_add_div]

/-- Every word up to `WORD_MAX` is packed, from the 14 bits it makes up (R143). -/
theorem exists_packWord {w : PackedWord} (hw : w.toNat ≤ 8648) :
    ∃ (a : Acc) (p : Pend), 13 < p.toNat ∧ p.toNat ≤ 21 ∧ a.toNat < 2 ^ p.toNat ∧ (packWord a p).word = w := by
  have hlt := w.isLt
  have hnum : (w.setWidth 21 : Acc).toNat = w.toNat := by
    rw [BitVec.toNat_setWidth, Nat.mod_eq_of_lt (by omega)]
  refine ⟨w.setWidth 21, 14#5, by decide, by decide, by rw [hnum]; exact hlt, BitVec.eq_of_toNat_eq ?_⟩
  by_cases hshort : w.toNat % 8192 < 457
  · obtain ⟨hword, -, -⟩ := packWord_short (w.setWidth 21) 14#5 (by rwa [hnum])
    omega
  · obtain ⟨hword, -, -⟩ := packWord_full (w.setWidth 21) 14#5 (by omega)
    omega

/-- The reverse table holds the value of every forward entry (R103). -/
theorem decLut_of_encLut {i : Nat} {c : Byte} (h : encLut i = some c) : decLut c = some (BitVec.ofNat 7 i) := by
  have hi := lt_of_encLut h
  rw [decLut_eq_some_iff_encLut, BitVec.toNat_ofNat, Nat.mod_eq_of_lt (by omega)]
  exact h

/-! ## The answers of the decoder commands -/

/-- A halted decoder refuses every WRITE and FLUSH (R149). -/
theorem exec_halted {i : Instr} {s : State} (herr : s.decErr = true)
    (hi : i = .decFlush ∨ ∃ c, i = .decWrite c) : exec i s = .next (s.respond .decHalted []) := by
  obtain rfl | ⟨c, rfl⟩ := hi
  · simp [exec, execDecFlush, herr, raise]
  · simp [exec, execDecWrite, herr, raise]

section

variable {s : State} (herr : s.decErr = false)
include herr

/-- DEC.FLUSH where the decoder is not halted (R145). -/
theorem exec_decFlush_running :
    exec .decFlush s = .next (((s.setDecoder 0#21 0#5).dropLow).respond .ok (flushBytes s)) := by
  simp [exec, execDecFlush, herr]

variable {c : Byte} {v : SymVal} (hv : decLut c = some v)
include hv

/-- DEC.WRITE of a member where no low symbol is pending holds it (R141). -/
theorem exec_decWrite_low (hpwv : s.decPwv = false) :
    exec (.decWrite c) s = .next ((s.holdLow v).respond .ok []) := by
  simp [exec, execDecWrite, decMember, herr, hv, hpwv]

/-- DEC.WRITE of a member where a low symbol is pending completes the pair (R141). -/
theorem exec_decWrite_high (hpwv : s.decPwv = true) : exec (.decWrite c) s = decHigh v s := by
  simp [exec, execDecWrite, decMember, herr, hv, hpwv]

end

/-- DEC.WRITE of a high symbol on numbers: with `w` the word of the pair, the whole bytes among the `p` pending
bits `a` leave (R141, R144). -/
theorem decHigh_eq {s : State} {v : SymVal} {w a p : Nat} (hs : DecInv s) (hv : v.toNat ≤ 92)
    (hw : w = s.decPw.toNat + 93 * v.toNat) (ha : a = s.decAcc.toNat + w * 2 ^ s.decPend.toNat)
    (hp : p = s.decPend.toNat + (if w % 8192 < 457 then 14 else 13)) :
    decHigh v s = .next (((s.setDecoder (BitVec.ofNat 21 (a / 256 ^ (p / 8))) (BitVec.ofNat 5 (p % 8))).dropLow).respond
      .ok (lowBytes (p / 8) a)) := by
  obtain ⟨hpend, hacc, -⟩ := hs
  have hword : (pairWord s.decPw v).toNat = w := (pairWord_toNat _ _ hv).trans hw.symm
  have hwidth : s.decPend.toNat + wordWidth (pairWord s.decPw v) = p := by rw [wordWidth_eq, hword, hp]
  have ⟨_, hle⟩ := wordWidth_bounds (pairWord s.decPw v)
  have hbits : (appendBits s.decAcc s.decPend (pairWord s.decPw v)).toNat = a := by
    rw [appendBits_toNat _ _ _ hacc (by omega), hword, ha]
  have hcount : (s.decPend + BitVec.ofNat 5 (wordWidth (pairWord s.decPw v))).toNat = p := by
    rw [BitVec.toNat_add, BitVec.toNat_ofNat]; omega
  simp only [decHigh]
  rw [releaseBytes_eq (by omega), hbits, hcount]

/-- A high symbol completes one byte or two (R144, R151). -/
theorem decHigh_emits {s : State} {v : SymVal} (hs : DecInv s) (hv : v.toNat ≤ 92) :
    ∃ out u, decHigh v s = .next (State.respond .ok out u) ∧ (out.length = 1 ∨ out.length = 2) := by
  refine ⟨_, _, decHigh_eq hs hv rfl rfl rfl, ?_⟩
  obtain ⟨hpend, -, -⟩ := hs
  rw [lowBytes_length]
  split_ifs <;> omega

/-- What DEC.FLUSH emits: nothing where no low symbol is pending, however many bits are (R145). -/
theorem flushBytes_of_noLow {s : State} (hpwv : s.decPwv = false) : flushBytes s = [] := by
  simp [flushBytes, hpwv]

/-- What DEC.FLUSH emits where a low symbol is pending: one byte, the low one (R146, D11). -/
theorem flushBytes_of_low {s : State} (hpwv : s.decPwv = true) (hs : DecInv s) :
    flushBytes s = [BitVec.ofNat 8 (s.decAcc.toNat + s.decPw.toNat * 2 ^ s.decPend.toNat)] := by
  obtain ⟨hpend, hacc, -⟩ := hs
  rw [flushBytes, if_pos hpwv, ← appendBits_toNat _ _ _ hacc (by omega)]
  exact congrArg (· :: []) (BitVec.eq_of_toNat_eq (by simp))

theorem flushBytes_length (s : State) : (flushBytes s).length ≤ 1 := by
  unfold flushBytes; split <;> simp

/-- DEC.WRITE of a member never fails and never halts the decoder, in any state where it is not halted (R148). -/
theorem exec_decWrite_member {s : State} {c : Byte} (herr : s.decErr = false) (hc : decLut c ≠ none) :
    ∃ out u, exec (.decWrite c) s = .next (State.respond .ok out u) ∧ out.length ≤ 2 ∧ u.decErr = false := by
  obtain ⟨v, hv⟩ := Option.ne_none_iff_exists'.1 hc
  cases hpwv : s.decPwv with
  | false => exact ⟨[], _, exec_decWrite_low herr hv hpwv, Nat.zero_le _, herr⟩
  | true => exact ⟨_, _, exec_decWrite_high herr hv hpwv, releaseBytes_length _ _, herr⟩

/-- A command of another unit answers the same whatever the decoder holds (R149). -/
theorem responseOf_exec_setDecErr {i : Instr} (hi : isDec i = false) (s : State) (b : Bool) :
    responseOf (exec i (s.setDecErr b)) = responseOf (exec i s) := by
  cases he : isEnc i with
  | true =>
    have hcomm := exec_encOnto he s (s.setDecErr b)
    rw [State.encOnto_of_sameEnc (s := s) (h := s.setDecErr b) ⟨rfl, rfl⟩] at hcomm
    rw [hcomm]
    cases exec i s <;> rfl
  | false =>
    rw [exec_rspOnto he hi s (s.setDecErr b)]
    cases exec i s <;> rfl

/-- DEC.CLEAR answers OK and clears its unit, in every state (R147). -/
theorem exec_decClear (s : State) : exec .decClear s = .next ((clearUnit .decClear s).respond .ok []) := rfl

/-- ENC.CLEAR answers OK and clears its unit, in every state (R127). -/
theorem exec_encClear (s : State) : exec .encClear s = .next ((clearUnit .encClear s).respond .ok []) := rfl

/-! ## Runs of commands -/

@[simp] theorem allOk_cons (st : Status) (out : List Byte) (rs : List Rsp) :
    allOk (packRsp st out :: rs) = (st.code == Status.ok.code && allOk rs) := by
  simp [allOk]

@[simp] theorem allOk_append (rs rs' : List Rsp) : allOk (rs ++ rs') = (allOk rs && allOk rs') :=
  List.all_append

/-- A run of commands that all answer, with the responses taken, one for each command. -/
inductive Run : List Instr → State → List Rsp → State → Prop
  | nil (s : State) : Run [] s [] s
  | cons {i : Instr} {is : List Instr} {s u t : State} {st : Status} {out : List Byte} {rs : List Rsp} :
      exec i s = .next (u.respond st out) → Run is (u.respond st out).takeRsp rs t →
      Run (i :: is) s (packRsp st out :: rs) t

namespace Run

variable {is : List Instr} {s t : State} {rs : List Rsp}

theorem length_eq (h : Run is s rs t) : rs.length = is.length := by
  induction h with
  | nil s => rfl
  | cons hexec hrun ih => simp [ih]

/-- Such a run is the run of the command words. -/
theorem runWords_eq (h : Run is s rs t) : runWords (wordsOf is) s = .next t := by
  induction h with
  | nil s => rfl
  | cons hexec hrun ih => exact (runWords_cons (transact_encode hexec)).trans ih

theorem taken_eq (h : Run is s rs t) : t.taken = s.taken ++ rs := by
  induction h with
  | nil s => simp
  | cons hexec hrun ih =>
    obtain ⟨-, -, -, -, htaken⟩ := exec_sameHost hexec
    rw [State.respond_taken] at htaken
    simp [ih, htaken]

theorem newRsps_eq (h : Run is s rs t) : newRsps s t = rs := newRsps_of_taken h.taken_eq

theorem append {is' : List Instr} {u : State} {rs' : List Rsp} (h : Run is s rs t) (h' : Run is' t rs' u) :
    Run (is ++ is') s (rs ++ rs') u := by
  induction h with
  | nil s => exact h'
  | cons hexec hrun ih => exact .cons hexec (ih h')

end Run

/-- A run of commands that all answer OK, with its concatenated output. -/
def OkRun (is : List Instr) (s : State) (out : List Byte) (t : State) : Prop :=
  ∃ rs, Run is s rs t ∧ allOk rs = true ∧ outputs rs = out

namespace OkRun

variable {is : List Instr} {s t : State} {out : List Byte}

theorem nil (s : State) : OkRun [] s [] s := ⟨[], .nil s, rfl, rfl⟩

theorem cons {i : Instr} {u : State} {bytes : List Byte} (h : exec i s = .next (u.respond .ok bytes))
    (hlen : bytes.length ≤ 2) (hrun : OkRun is (u.respond .ok bytes).takeRsp out t) :
    OkRun (i :: is) s (bytes ++ out) t := by
  obtain ⟨rs, hrun, hok, rfl⟩ := hrun
  exact ⟨_, .cons h hrun, by simpa using hok, by simp [outputs, rspOutput_packRsp hlen]⟩

theorem single {i : Instr} {u : State} {bytes : List Byte} (h : exec i s = .next (u.respond .ok bytes))
    (hlen : bytes.length ≤ 2) : OkRun [i] s bytes (u.respond .ok bytes).takeRsp := by
  simpa using cons h hlen (nil _)

theorem append {is' : List Instr} {u : State} {out' : List Byte} (h : OkRun is s out t)
    (h' : OkRun is' t out' u) : OkRun (is ++ is') s (out ++ out') u := by
  obtain ⟨rs, hrun, hok, rfl⟩ := h
  obtain ⟨rs', hrun', hok', rfl⟩ := h'
  exact ⟨rs ++ rs', hrun.append hrun', by rw [allOk_append, hok, hok']; rfl, by simp [outputs]⟩

/-- What the host sees of such a run. -/
theorem observed (h : OkRun is s out t) :
    runWords (wordsOf is) s = .next t ∧ allOk (newRsps s t) = true ∧ outputs (newRsps s t) = out ∧
      (newRsps s t).length = is.length := by
  obtain ⟨rs, hrun, hok, hout⟩ := h
  rw [hrun.newRsps_eq]
  exact ⟨hrun.runWords_eq, hok, hout, hrun.length_eq⟩

end OkRun

/-- A halted decoder answers a run of WRITEs and FLUSHes with DEC_HALTED throughout and keeps its registers, by
induction over the commands (R149). -/
theorem run_halted {is : List Instr} {s : State} (herr : s.decErr = true)
    (his : ∀ i ∈ is, i = .decFlush ∨ ∃ c, i = .decWrite c) :
    ∃ t, Run is s (List.replicate is.length (packRsp .decHalted [])) t ∧ SameEnc s t ∧ SameDec s t := by
  induction is generalizing s with
  | nil => exact ⟨s, .nil s, ⟨rfl, rfl⟩, rfl, rfl, rfl, rfl, rfl⟩
  | cons i is ih =>
    obtain ⟨hi, his⟩ := List.forall_mem_cons.1 his
    obtain ⟨t, hrun, hsame⟩ := ih (s := (s.respond .decHalted []).takeRsp) herr his
    exact ⟨t, .cons (exec_halted herr hi) hrun, hsame⟩

/-- Members alone leave the decoder running, in any state where it is not halted (R148). -/
theorem okRun_members {s : State} {cs : List Byte} (herr : s.decErr = false) (hcs : ∀ c ∈ cs, decLut c ≠ none) :
    ∃ out t, OkRun (cs.map .decWrite) s out t ∧ t.decErr = false := by
  induction cs generalizing s with
  | nil => exact ⟨[], s, .nil s, herr⟩
  | cons c cs ih =>
    obtain ⟨hc, hcs⟩ := List.forall_mem_cons.1 hcs
    obtain ⟨bytes, u, hwrite, hlen, hu⟩ := exec_decWrite_member herr hc
    obtain ⟨out, t, hrun, ht⟩ := ih (s := (u.respond .ok bytes).takeRsp) hu hcs
    exact ⟨_, t, .cons hwrite hlen hrun, ht⟩

/-- The first code outside the alphabet halts the decoder for the rest of the session, its response not being
OK (R142, R149). -/
theorem run_nonMember {s : State} {cs : List Byte} (herr : s.decErr = false) (hcs : ∃ c ∈ cs, decLut c = none) :
    ∃ rs t, Run (cs.map .decWrite ++ [.decFlush]) s rs t ∧ allOk rs = false ∧ t.decErr = true := by
  induction cs generalizing s with
  | nil => simp at hcs
  | cons c cs ih =>
    by_cases hc : decLut c = none
    · have hrest : ∀ i ∈ cs.map Instr.decWrite ++ [.decFlush], i = .decFlush ∨ ∃ c, i = .decWrite c := by
        simp [or_imp, forall_and]
      obtain ⟨t, hrun, -, -, -, -, -, ht⟩ :=
        run_halted (s := ((s.setDecErr true).respond .invalidSymbol []).takeRsp) rfl hrest
      exact ⟨_, t, .cons (exec_decWrite_nonMember herr hc) hrun, by rw [allOk_cons]; rfl, ht⟩
    · obtain ⟨bytes, u, hwrite, -, hu⟩ := exec_decWrite_member herr hc
      have hcs : ∃ c ∈ cs, decLut c = none := by simpa [hc] using hcs
      obtain ⟨rs, t, hrun, hbad, ht⟩ := ih (s := (u.respond .ok bytes).takeRsp) hu hcs
      exact ⟨_, t, .cons hwrite hrun, by rw [allOk_cons, hbad, Bool.and_false], ht⟩

/-! ## The round trip -/

/-- A decoder that is running between two words, under R28. -/
structure BetweenWords (s : State) : Prop where
  inv : DecInv s
  running : s.decErr = false
  noLow : s.decPwv = false

/-- Between two words a member is held as the low symbol, and nothing else changes in the decoder. -/
theorem BetweenWords.okRun_low {s : State} (hs : BetweenWords s) {i : Nat} {c : Byte} (hc : encLut i = some c) :
    ∃ t, OkRun [.decWrite c] s [] t ∧ DecInv t ∧ t.decErr = false ∧ t.decPwv = true ∧ t.decPw.toNat = i ∧
      t.decAcc = s.decAcc ∧ t.decPend = s.decPend := by
  obtain ⟨⟨hpend, hacc, -⟩, hrun, hlow⟩ := hs
  have hv := decLut_of_encLut hc
  have hi := lt_of_encLut hc
  exact ⟨_, .single (exec_decWrite_low hrun hv hlow) (Nat.zero_le _), ⟨hpend, hacc, decLut_le hv⟩, hrun, rfl,
    Nat.mod_eq_of_lt (by omega), rfl, rfl⟩

/-- Taking a response writes no decoder register. -/
theorem takeRsp_keeps_decInv {s : State} (hs : DecInv s) : DecInv s.takeRsp :=
  decInv_of_sameDec ⟨s.takeRsp_decPwv, s.takeRsp_decPw, s.takeRsp_decAcc, s.takeRsp_decPend, s.takeRsp_decErr⟩ hs

/-- A word above at most 7 pending bits fits the decoder's accumulator (R28). -/
theorem word_above_pending_lt {d q n : Nat} (hq : q ≤ 7) (hd : d < 2 ^ q) (hn : n ≤ 8648) :
    d + n * 2 ^ q < 2 ^ 21 := by
  have hpow : 2 ^ q ≤ 2 ^ 7 := Nat.pow_le_pow_right (by decide) hq
  have hmul : n * 2 ^ q ≤ 8648 * 2 ^ 7 := Nat.mul_le_mul hn hpow
  omega

/-- Decoding the symbols of a number `n`, a word of `k` bits: its bits join the pending ones, and the whole bytes
leave (R141, R143). -/
theorem BetweenWords.okRun_pair {s : State} (hs : BetweenWords s) {n k : Nat} {lo hi : Byte} (hn : n ≤ 8648)
    (hlo : encLut (n % 93) = some lo) (hhi : encLut (n / 93) = some hi)
    (hk : k = if n % 8192 < 457 then 14 else 13) :
    ∃ t, BetweenWords t ∧
      OkRun [.decWrite lo, .decWrite hi] s
        (lowBytes ((s.decPend.toNat + k) / 8) (s.decAcc.toNat + n * 2 ^ s.decPend.toNat)) t ∧
      t.decAcc.toNat = (s.decAcc.toNat + n * 2 ^ s.decPend.toNat) / 256 ^ ((s.decPend.toNat + k) / 8) ∧
      t.decPend.toNat = (s.decPend.toNat + k) % 8 := by
  obtain ⟨m, hlow, hinv, herr, hpwv, hpw, hacc, hpend⟩ := hs.okRun_low hlo
  rw [← hacc, ← hpend]
  generalize ha : m.decAcc.toNat + n * 2 ^ m.decPend.toNat = a
  generalize hp : m.decPend.toNat + k = p
  have hv := decLut_of_encLut hhi
  have hvalue : (BitVec.ofNat 7 (n / 93)).toNat = n / 93 := Nat.mod_eq_of_lt (by omega)
  have hhigh := (exec_decWrite_high herr hv hpwv).trans
    (decHigh_eq hinv (decLut_le hv) (w := n) (by omega) ha.symm (hk ▸ hp.symm))
  have hlt : a < 2 ^ 21 := by
    obtain ⟨hq, hd, -⟩ := hinv
    exact ha ▸ word_above_pending_lt hq hd hn
  have hlen : (lowBytes (p / 8) a).length ≤ 2 := by
    obtain ⟨hq, -, -⟩ := hinv
    rw [lowBytes_length]; split_ifs at hk <;> omega
  refine ⟨_, ⟨takeRsp_keeps_decInv (exec_keeps_decInv hinv hhigh), herr, rfl⟩,
    hlow.append (.single hhigh hlen), ?_, ?_⟩
  · exact Nat.mod_eq_of_lt ((Nat.div_le_self _ _).trans_lt hlt)
  · exact Nat.mod_eq_of_lt (by omega)

/-- Decoding a lone symbol and flushing: one byte, its value above the pending bits (R146). -/
theorem BetweenWords.okRun_lone {s : State} (hs : BetweenWords s) {i : Nat} {c : Byte} (hc : encLut i = some c) :
    ∃ t, OkRun [.decWrite c, .decFlush] s (lowBytes 1 (s.decAcc.toNat + i * 2 ^ s.decPend.toNat)) t := by
  obtain ⟨m, hlow, hinv, herr, hpwv, rfl, hacc, hpend⟩ := hs.okRun_low hc
  have hflush := exec_decFlush_running herr
  rw [flushBytes_of_low hpwv hinv, hacc, hpend] at hflush
  exact ⟨_, hlow.append (.single hflush (by simp))⟩

/-- Between two words the flush gives nothing out, whatever bits are pending (R145). -/
theorem BetweenWords.okRun_flush {s : State} (hs : BetweenWords s) : ∃ t, OkRun [.decFlush] s [] t := by
  obtain ⟨-, herr, hlow⟩ := hs
  have hflush := exec_decFlush_running herr
  rw [flushBytes_of_noLow hlow] at hflush
  exact ⟨_, .single hflush (Nat.zero_le _)⟩

/-- ENC.WRITE where a word is due: the symbols of a number `n`, a word of `k` bits, which with what stays pending
makes up the pending bits and the byte (R121, R123). -/
theorem okRun_encWrite_word {s : State} (hs : EncInv s) (b : Byte) (hdue : 13 < s.encPend.toNat + 8) :
    ∃ n k lo hi t, OkRun [.encWrite b] s [lo, hi] t ∧ EncInv t ∧
      n ≤ 8648 ∧ encLut (n % 93) = some lo ∧ encLut (n / 93) = some hi ∧
      k = (if n % 8192 < 457 then 14 else 13) ∧
      s.encAcc.toNat + b.toNat * 2 ^ s.encPend.toNat = n + t.encAcc.toNat * 2 ^ k ∧
      s.encPend.toNat + 8 = k + t.encPend.toNat := by
  obtain ⟨hbits, hcount⟩ := appendByte_toNat hs b
  rw [← hcount] at hdue
  obtain ⟨hword, hacc, hpend⟩ := packWord_of_wordWidth (a := appendBits s.encAcc s.encPend b) hdue rfl
  obtain ⟨hpaid, hmade⟩ := packWord_account (a := appendBits s.encAcc s.encPend b) hdue
  obtain ⟨lo, hi, hlo, hhi, hexec⟩ := packIfDue_of_gt (a := appendBits s.encAcc s.encPend b) hdue rfl s
  rw [← hword] at hlo hhi
  rw [← hacc, ← hpend] at hexec
  have hexec : exec (.encWrite b) s = _ := hexec
  refine ⟨_, _, lo, hi, _, .single hexec le_rfl, takeRsp_keeps_encInv (exec_keeps_encInv hs hexec),
    packWord_le _ _, hlo, hhi, wordWidth_eq _, hbits ▸ hmade, ?_⟩
  rw [← hcount, ← hpaid, Nat.add_comm]
  rfl

/-- The bytes not given back yet, with `a` of `p` bits pending in the encoder and `d` of `q` bits in the decoder:
the encoder's bits stand above the decoder's. -/
def undelivered (d q a p : Nat) : List Byte := lowBytes ((q + p) / 8) (d + a * 2 ^ q)

/-- A byte above the pending bits joins the undelivered bytes at the end. -/
theorem undelivered_write {d q a p : Nat} (hd : d < 2 ^ q) (ha : a < 2 ^ p) (h8 : 8 ∣ q + p) (b : Byte) :
    undelivered d q (a + b.toNat * 2 ^ p) (p + 8) = undelivered d q a p ++ [b] := by
  obtain ⟨n, hn⟩ := h8
  have hpow : 2 ^ p * 2 ^ q = 256 ^ n := by rw [← Nat.pow_add, Nat.add_comm, hn, Nat.pow_mul]
  have hlt : d + a * 2 ^ q < 256 ^ n :=
    calc d + a * 2 ^ q < (a + 1) * 2 ^ q := by rw [Nat.add_one_mul]; omega
      _ ≤ 2 ^ p * 2 ^ q := Nat.mul_le_mul_right _ ha
      _ = 256 ^ n := hpow
  have hcount : (q + (p + 8)) / 8 = n + 1 := by omega
  have hbits : d + (a + b.toNat * 2 ^ p) * 2 ^ q = d + a * 2 ^ q + b.toNat * 256 ^ n := by
    rw [Nat.add_mul, Nat.mul_assoc, hpow, Nat.add_assoc]
  rw [undelivered, undelivered, hcount, hbits, lowBytes_add, Nat.div_eq_of_lt hlt, hn,
    Nat.mul_div_cancel_left n (by decide)]
  simp

/-- A word of `k` bits that goes over from the encoder to the decoder: the whole bytes it completes there come
first among the undelivered ones. -/
theorem undelivered_word (d q w k a p : Nat) :
    undelivered d q (w + a * 2 ^ k) (k + p) =
      lowBytes ((q + k) / 8) (d + w * 2 ^ q) ++
        undelivered ((d + w * 2 ^ q) / 256 ^ ((q + k) / 8)) ((q + k) % 8) a p := by
  generalize hr : (q + k) / 8 = r
  have hsplit : q + k = (q + k) % 8 + 8 * r := by omega
  have hpow : 2 ^ k * 2 ^ q = 2 ^ ((q + k) % 8) * 256 ^ r := by
    rw [← Nat.pow_add, Nat.add_comm, hsplit, Nat.pow_add, Nat.pow_mul, ← hsplit]
  have hcount : (q + (k + p)) / 8 = r + ((q + k) % 8 + p) / 8 := by omega
  have hbits : d + (w + a * 2 ^ k) * 2 ^ q = d + w * 2 ^ q + a * 2 ^ ((q + k) % 8) * 256 ^ r := by
    rw [Nat.add_mul, Nat.mul_assoc, hpow, Nat.add_assoc, Nat.mul_assoc]
  rw [undelivered, hcount, hbits, lowBytes_add]
  rfl

/-- The encoder `s` and the decoder `s'` in step: between them whole bytes are pending, `bytes`. -/
structure InStep (s s' : State) (bytes : List Byte) : Prop where
  enc : EncInv s
  dec : BetweenWords s'
  whole : 8 ∣ s'.decPend.toNat + s.encPend.toNat
  pending : undelivered s'.decAcc.toNat s'.decPend.toNat s.encAcc.toNat s.encPend.toNat = bytes

/-- After a CLEAR of each, the two units are in step with nothing pending (R127, R147). -/
theorem inStep_cleared (s s' : State) :
    InStep ((clearUnit .encClear s).respond .ok []).takeRsp ((clearUnit .decClear s').respond .ok []).takeRsp [] where
  enc := ⟨Nat.zero_le _, Nat.one_pos⟩
  dec := ⟨⟨Nat.zero_le _, Nat.one_pos, Nat.zero_le _⟩, rfl, rfl⟩
  whole := ⟨0, rfl⟩
  pending := by simp [undelivered, clearUnit]

/-- A byte written and its symbols decoded: what the decoder gives out and what is pending afterwards make up
what was pending before and the byte. -/
theorem inStep_write {s s' : State} {bytes : List Byte} (h : InStep s s' bytes) (b : Byte) :
    ∃ syms t out t' rest, OkRun [.encWrite b] s syms t ∧ OkRun (syms.map .decWrite) s' out t' ∧
      InStep t t' rest ∧ out ++ rest = bytes ++ [b] := by
  obtain ⟨henc, hdec, hwhole, rfl⟩ := h
  have ⟨_, hacc⟩ := henc
  have ⟨⟨_, hdacc, _⟩, _, _⟩ := hdec
  have hwrite := undelivered_write hdacc hacc hwhole b
  by_cases hdue : 13 < s.encPend.toNat + 8
  · obtain ⟨n, k, lo, hi, t, hrun, htenc, hn, hlo, hhi, hk, hbits, hcount⟩ := okRun_encWrite_word henc b hdue
    obtain ⟨t', htdec, hrun', hacc', hpend'⟩ := hdec.okRun_pair hn hlo hhi hk
    refine ⟨[lo, hi], t, _, t', _, hrun, hrun', ⟨htenc, htdec, by omega, rfl⟩, ?_⟩
    rw [hacc', hpend', ← undelivered_word, ← hbits, ← hcount, hwrite]
  · obtain ⟨hbits, hcount⟩ := appendByte_toNat henc b
    have hexec : exec (.encWrite b) s = _ := packIfDue_of_le (by omega) s
    rw [← hbits, ← hcount] at hwrite
    refine ⟨[], _, [], s', _, .single hexec (Nat.zero_le _), .nil s',
      ⟨takeRsp_keeps_encInv (exec_keeps_encInv henc hexec), hdec, ?_, rfl⟩, hwrite⟩
    show 8 ∣ s'.decPend.toNat + (s.encPend + 8#5).toNat
    omega

/-- Both flushes: the decoder gives out the bytes that were pending. -/
theorem inStep_flush {s s' : State} {bytes : List Byte} (h : InStep s s' bytes) :
    ∃ syms t t', OkRun [.encFlush] s syms t ∧ OkRun (syms.map .decWrite ++ [.decFlush]) s' bytes t' := by
  obtain ⟨henc, hdec, hwhole, rfl⟩ := h
  have ⟨hpend, hacc⟩ := henc
  have ⟨⟨hdpend, _, _⟩, _, _⟩ := hdec
  obtain ⟨lo, hi, hlo, hhi, hflush⟩ := exec_encFlush_of_encInv henc
  by_cases hnone : s.encPend.toNat = 0
  · rw [if_pos hnone] at hflush
    obtain ⟨t', hrun'⟩ := hdec.okRun_flush
    refine ⟨[], _, t', .single hflush (Nat.zero_le _), ?_⟩
    rwa [undelivered, show (s'.decPend.toNat + s.encPend.toNat) / 8 = 0 by omega]
  · rw [if_neg hnone] at hflush
    by_cases hpair : 8 < s.encPend.toNat ∨ 93 ≤ s.encAcc.toNat
    · rw [if_pos hpair] at hflush
      have hseven := seven_le_of_lt_two_pow hacc
      obtain ⟨u, hu, hrun', -, -⟩ := hdec.okRun_pair (encAcc_le_wordMax henc) hlo hhi rfl
      obtain ⟨t', hrun''⟩ := hu.okRun_flush
      refine ⟨[lo, hi], _, t', .single hflush le_rfl, ?_⟩
      have hwhole : (s'.decPend.toNat + s.encPend.toNat) / 8 =
          (s'.decPend.toNat + if s.encAcc.toNat % 8192 < 457 then 14 else 13) / 8 := by split_ifs <;> omega
      have hall := hrun'.append hrun''
      rwa [List.append_nil, ← hwhole] at hall
    · rw [if_neg hpair] at hflush
      rw [Nat.mod_eq_of_lt (by omega)] at hlo
      obtain ⟨t', hrun'⟩ := hdec.okRun_lone hlo
      refine ⟨[lo], _, t', .single hflush (by simp), ?_⟩
      rwa [undelivered, show (s'.decPend.toNat + s.encPend.toNat) / 8 = 1 by omega]

/-- The round trip from an encoder and a decoder in step, by induction over the bytes (R150). -/
theorem inStep_roundTrip {s s' : State} {bytes : List Byte} (h : InStep s s' bytes) (bs : List Byte) :
    ∃ syms t t', OkRun (bs.map .encWrite ++ [.encFlush]) s syms t ∧
      OkRun (syms.map .decWrite ++ [.decFlush]) s' (bytes ++ bs) t' := by
  induction bs generalizing s s' bytes with
  | nil => simpa using inStep_flush h
  | cons b bs ih =>
    obtain ⟨syms, u, out, u', rest, henc, hdec, hstep, hbytes⟩ := inStep_write h b
    obtain ⟨syms', t, t', hencs, hdecs⟩ := ih hstep
    refine ⟨syms ++ syms', t, t', henc.append hencs, ?_⟩
    have hall := hdec.append hdecs
    rwa [← List.append_assoc, ← List.map_append, ← List.append_assoc, hbytes, List.append_assoc] at hall

end Sys2Proof.Machine

namespace Sys2Proof.Proofs

open Sys2Proof.Machine

/-- Settles O37: after the two CLEARs both units are in step with nothing pending. -/
theorem decodeInvertsEncodeOnStreams : Obligations.DecodeInvertsEncodeOnStreams := by
  unfold Obligations.DecodeInvertsEncodeOnStreams
  intro s s' bs
  obtain ⟨syms, t, t', henc, hdec⟩ := inStep_roundTrip (inStep_cleared s s') bs
  obtain ⟨hrun, hok, hsyms, -⟩ := (henc.cons (exec_encClear s) (Nat.zero_le _)).observed
  obtain ⟨hrun', hok', hbytes, -⟩ := (hdec.cons (exec_decClear s') (Nat.zero_le _)).observed
  refine ⟨t, t', hrun, ?_, hok, hok', hbytes⟩
  rw [hsyms]
  exact hrun'

/-- Settles O27: the numbers of `decHigh_eq`, where one whole byte stands among 13 to 15 bits and two stand among
16 to 21. -/
theorem decWriteResult : Obligations.DecWriteResult := by
  unfold Obligations.DecWriteResult
  refine fun s c => ⟨rfl, fun herr => exec_halted herr (.inr ⟨c, rfl⟩),
    fun herr hc => exec_decWrite_nonMember herr hc, fun herr hpwv v hv => exec_decWrite_low herr hv hpwv,
    fun herr hpwv hs v hv w a p hw ha hp => ?_⟩
  have hhigh := (exec_decWrite_high herr hv hpwv).trans (decHigh_eq hs (decLut_le hv) hw ha hp)
  obtain ⟨hpend, -, -⟩ := hs
  refine ⟨by split_ifs at hp <;> omega, by split_ifs at hp <;> omega, fun h16 => ?_, fun h16 => ?_⟩
  · have hone : p / 8 = 1 := by split_ifs at hp <;> omega
    have hrest : p % 8 = p - 8 := by omega
    rw [hhigh, hone, hrest]
    rfl
  · have htwo : p / 8 = 2 := by split_ifs at hp <;> omega
    have hrest : p % 8 = p - 16 := by omega
    rw [hhigh, htwo, hrest]
    rfl

/-- Settles O28: the account of packing, and 14 bits that make up the word for every word. -/
theorem widthRuleAgreesWithEncoder : Obligations.WidthRuleAgreesWithEncoder := by
  unfold Obligations.WidthRuleAgreesWithEncoder
  refine ⟨fun lo hi hlo hhi => ?_, wordWidth_eq, fun w hw => exists_packWord hw,
    fun a p hdue _ _ => packWord_account hdue⟩
  have hpair := pairWord_toNat lo hi hhi
  exact ⟨hpair, by omega⟩

/-- Settles O29, by what is pending. -/
theorem decFlushResult : Obligations.DecFlushResult := by
  unfold Obligations.DecFlushResult
  refine ⟨rfl, fun d hd => decode_nonzeroData (by decide) hd, fun s => ⟨fun herr => exec_halted herr (.inl rfl),
    fun herr hpwv => ?_, fun herr hpwv hs => ?_⟩⟩
  · rw [exec_decFlush_running herr, flushBytes_of_noLow hpwv]; rfl
  · rw [exec_decFlush_running herr, flushBytes_of_low hpwv hs]; rfl

/-- Settles O30: DEC.CLEAR writes constants, whatever the state. -/
theorem decClearResult : Obligations.DecClearResult := by
  unfold Obligations.DecClearResult
  exact ⟨rfl, fun d hd => decode_nonzeroData (by decide) hd, fun s => rfl⟩

/-- Settles O33: the run by its induction, the other units by their frames. -/
theorem haltedUntilCleared : Obligations.HaltedUntilCleared := by
  unfold Obligations.HaltedUntilCleared
  intro s is herr his
  obtain ⟨t, hrun, henc, hdec⟩ := run_halted herr his
  exact ⟨⟨t, hrun.runWords_eq, hrun.newRsps_eq, henc, hdec⟩, rfl, rfl,
    fun i hi => (responseOf_exec_setDecErr hi s false).symm⟩

/-- Settles O34: DEC.CLEAR leaves the decoder running, members keep it so, and the flush then answers OK. -/
theorem alphabetOnlyInputDecodes : Obligations.AlphabetOnlyInputDecodes := by
  unfold Obligations.AlphabetOnlyInputDecodes
  intro s cs hcs
  obtain ⟨out, u, hwrites, hu⟩ := okRun_members
    (s := ((clearUnit .decClear s).respond .ok []).takeRsp) rfl hcs
  have hflush := OkRun.single (exec_decFlush_running hu) ((flushBytes_length u).trans (by decide))
  obtain ⟨hrun, hok, -, hlen⟩ := ((hwrites.append hflush).cons (exec_decClear s) (Nat.zero_le _)).observed
  exact ⟨_, hrun, hok, by simpa using hlen⟩

/-- Settles O35: DEC.CLEAR leaves the decoder running, and the non-member halts it to the end. -/
theorem nonMemberFailsDecodeSession : Obligations.NonMemberFailsDecodeSession := by
  unfold Obligations.NonMemberFailsDecodeSession
  intro s existing cs hcs
  obtain ⟨rs, t, hrun, hbad, ht⟩ := run_nonMember
    (s := ((clearUnit .decClear s).respond .ok []).takeRsp) rfl hcs
  have hsession : Run (decodeSession cs) s (packRsp .ok [] :: rs) t := .cons (exec_decClear s) hrun
  have hfails : allOk (newRsps s t) = false := by
    rw [hsession.newRsps_eq, allOk_cons, hbad, Bool.and_false]
  exact ⟨⟨t, hsession.runWords_eq, hfails, ht⟩, by simp [oneShotDecode, hsession.runWords_eq, hfails]⟩

/-- Settles O31: only a completed pair gives bytes out on a WRITE, as many as stand among its 13 to 21 bits. -/
theorem decoderOutputCounts : Obligations.DecoderOutputCounts := by
  unfold Obligations.DecoderOutputCounts
  refine fun s hs => ⟨fun c => ?_, ?_, ⟨_, rfl, rfl⟩⟩
  · cases herr : s.decErr with
    | true => exact ⟨_, by rw [exec_halted herr (.inr ⟨c, rfl⟩), responseOf_respond], fun _ => rfl, nofun⟩
    | false =>
      cases hv : decLut c with
      | none =>
        exact ⟨_, by rw [exec_decWrite_nonMember herr hv, responseOf_respond], fun _ => rfl, fun _ h => absurd rfl h⟩
      | some v =>
        cases hpwv : s.decPwv with
        | false => exact ⟨_, by rw [exec_decWrite_low herr hv hpwv, responseOf_respond], fun _ => rfl, nofun⟩
        | true =>
          obtain ⟨out, u, hhigh, hlen⟩ := decHigh_emits hs (decLut_le hv)
          refine ⟨_, by rw [exec_decWrite_high herr hv hpwv, hhigh, responseOf_respond], by simp, fun _ _ _ => ?_⟩
          rwa [rspOutput_packRsp (by omega)]
  · cases herr : s.decErr with
    | true => exact ⟨_, by rw [exec_halted herr (.inl rfl), responseOf_respond], Nat.zero_le _⟩
    | false =>
      have hlen := flushBytes_length s
      refine ⟨_, by rw [exec_decFlush_running herr, responseOf_respond], ?_⟩
      rwa [rspOutput_packRsp (by omega)]

end Sys2Proof.Proofs
end

section
/-! SUPPORT. The exceptions family (60_exceptions.md): the status of every command word by the priority of R175,
an illegal word, and the idle block.  The status is found command by command, from the answers each unit's family
gives; no invariant is needed, since only an answered command reports one. -/

namespace Sys2Proof.Machine

/-! ## The status an answer reports -/

/-- Where the answer is a next state, its response carries the status `st`. -/
def ReportsStatus (a : Answer) (st : Status) : Prop :=
  ∀ t, a = .next t → ∃ r, responseOf (.next t) = some r ∧ rspStatus r = st.code

theorem ReportsStatus.of_eq_respond {a : Answer} {st : Status} {out : List Byte} {u : State}
    (h : a = .next (u.respond st out)) : ReportsStatus a st := by
  intro t ht
  cases h.symm.trans ht
  exact ⟨packRsp st out, responseOf_respond st out u, rspStatus_packRsp st out⟩

/-- An encoder command reports OK only (R128). -/
theorem exec_enc_reports {i : Instr} (hi : isEnc i = true) (s : State) : ReportsStatus (exec i s) .ok := by
  intro t ht
  obtain ⟨out, a, p, rfl, -, -⟩ := exec_enc_eq_next hi ht
  exact ReportsStatus.of_eq_respond rfl _ rfl

/-- DEC.WRITE: the halt comes before the membership test (R175). -/
theorem exec_decWrite_reports (c : Byte) (s : State) :
    ReportsStatus (exec (.decWrite c) s)
      (if s.decErr then .decHalted else if decLut c = none then .invalidSymbol else .ok) := by
  cases herr : s.decErr with
  | true => exact .of_eq_respond (exec_halted herr (.inr ⟨c, rfl⟩))
  | false =>
    by_cases hc : decLut c = none
    · rw [if_pos hc]
      exact .of_eq_respond (exec_decWrite_nonMember herr hc)
    · obtain ⟨out, u, hexec, -, -⟩ := exec_decWrite_member herr hc
      rw [if_neg hc]
      exact .of_eq_respond hexec

theorem exec_decFlush_reports (s : State) :
    ReportsStatus (exec .decFlush s) (if s.decErr then .decHalted else .ok) := by
  cases herr : s.decErr with
  | true => exact .of_eq_respond (exec_halted herr (.inl rfl))
  | false => exact .of_eq_respond (exec_decFlush_running herr)

/-- LUT.ENC: an index is in range exactly where the table holds an entry (R51, R174). -/
theorem exec_lutEnc_reports (k : Byte) (s : State) :
    ReportsStatus (exec (.lutEnc k) s) (if 93 ≤ k.toNat then .lutRange else .ok) := by
  by_cases hk : 93 ≤ k.toNat
  · rw [if_pos hk]
    exact .of_eq_respond (exec_lutEnc_of_noEntry (encLut_of_ge hk) s)
  · obtain ⟨b, hb⟩ := encLut_of_lt (Nat.lt_of_not_le hk)
    rw [if_neg hk]
    exact .of_eq_respond (exec_lutEnc_of_entry hb s)

theorem exec_lutDec_reports (c : Byte) (s : State) :
    ReportsStatus (exec (.lutDec c) s) (if decLut c = none then .invalidSymbol else .ok) := by
  cases hc : decLut c with
  | none => exact .of_eq_respond (exec_lutDec_of_nonMember hc s)
  | some v => exact .of_eq_respond (exec_lutDec_of_member hc s)

/-- Every command word reports the status R175 gives it, in every state. -/
theorem runWord_reports (w : Cmd) (s : State) : ReportsStatus (runWord w s) (expectedStatus w s) := by
  unfold expectedStatus
  cases hdecode : decode w with
  | error e => exact .of_eq_respond (runWord_error hdecode s)
  | ok i =>
    rw [runWord_ok hdecode]
    cases i with
    | encWrite _ | encFlush | encClear => exact exec_enc_reports rfl s
    | decWrite c => exact exec_decWrite_reports c s
    | decFlush => exact exec_decFlush_reports s
    | decClear => exact .of_eq_respond (exec_decClear s)
    | lutEnc k => exact exec_lutEnc_reports k s
    | lutDec c => exact exec_lutDec_reports c s

end Sys2Proof.Machine

namespace Sys2Proof.Proofs

open Sys2Proof.Machine

/-- Settles O10: each code is its definition's value. -/
theorem statusCodes : Obligations.StatusCodes := ⟨rfl, rfl, rfl, rfl, rfl⟩

/-- Settles O12, by the command the word decodes to. -/
theorem statusFollowsPriority : Obligations.StatusFollowsPriority := by
  unfold Obligations.StatusFollowsPriority
  exact runWord_reports

/-- Settles O13: on either ground of R76 the word decodes to nothing. -/
theorem illegalWordChangesNothing : Obligations.IllegalWordChangesNothing := by
  unfold Obligations.IllegalWordChangesNothing
  obtain ⟨-, -, hnonzero, hreserved⟩ := decodeFollowsOpcodeMap
  rintro o d s (⟨hbare, hoperand⟩ | ⟨hbare, hd⟩)
  · exact runWord_error (hreserved o d hbare hoperand) s
  · exact runWord_error (hnonzero o d hbare hd) s

/-- Settles O47, by induction on the idle edges: each one consumes its inputs and leaves a ready block. -/
theorem idleBlockHoldsState : Obligations.IdleBlockHoldsState := by
  unfold Obligations.IdleBlockHoldsState
  intro s ps rest hready hpins hidle
  induction ps generalizing s with
  | nil =>
    have hrest : s.pins = rest := hpins
    subst hrest
    rfl
  | cons p ps ih =>
    obtain ⟨⟨hrst, hvalid⟩, hidle⟩ := List.forall_mem_cons.1 hidle
    have hsample := State.sample_of_cons hpins
    have hstep : step s = .next s.dropPins :=
      step_idle (by rw [hsample, hrst]) hready (by rw [hsample, hvalid])
    have htail : s.dropPins.pins = ps ++ rest := congrArg List.tail hpins
    exact (runEdges_succ hstep).trans (ih s.dropPins hready htail hidle)

end Sys2Proof.Proofs
end

section
/-! SUPPORT. The reset and hazards family (70_reset_and_hazards.md): edges with reset, progress, and commands of
the two units interleaved.  Under R23 every command answers, so runs of commands and of edges go on for ever.
A run splits by unit: the commands of one unit, run alone, go in step with the whole run, one command of the
unit at a time, and the commands between them do not touch it. -/

namespace Sys2Proof.Machine

/-! ## Every command answers -/

/-- Every decoder command answers, whatever the decoder holds (R148, R149). -/
theorem exec_dec_answers {i : Instr} (hi : isDec i = true) (s : State) : ∃ t, exec i s = .next t := by
  cases i with
  | decWrite c =>
    cases herr : s.decErr with
    | true => exact ⟨_, exec_halted herr (.inr ⟨c, rfl⟩)⟩
    | false =>
      by_cases hc : decLut c = none
      · exact ⟨_, exec_decWrite_nonMember herr hc⟩
      · obtain ⟨_, _, hwrite, -⟩ := exec_decWrite_member herr hc
        exact ⟨_, hwrite⟩
  | decFlush =>
    cases herr : s.decErr with
    | true => exact ⟨_, exec_halted herr (.inl rfl)⟩
    | false => exact ⟨_, exec_decFlush_running herr⟩
  | decClear => exact ⟨_, exec_decClear s⟩
  | encWrite _ | encFlush | encClear | lutEnc _ | lutDec _ => nomatch hi

section

variable {s : State} (hs : EncInv s)
include hs

/-- Under R23 every command answers a next state: ENC.FLUSH alone can fault, on an index R23 rules out (R51). -/
theorem exec_answers (i : Instr) : ∃ t, exec i s = .next t := by
  cases i with
  | encWrite _ | encFlush | encClear => exact exec_enc_of_encInv hs rfl
  | decWrite _ | decFlush | decClear => exact exec_dec_answers rfl s
  | lutEnc k =>
    obtain ⟨_, _, hlookup⟩ := exec_lookup_or_clear (.inr (.inr (.inl ⟨k, rfl⟩)))
    exact ⟨_, hlookup s⟩
  | lutDec c =>
    obtain ⟨_, _, hlookup⟩ := exec_lookup_or_clear (.inr (.inr (.inr ⟨c, rfl⟩)))
    exact ⟨_, hlookup s⟩

/-- The same of every command word, legal or not. -/
theorem runWord_answers (w : Cmd) : ∃ t, runWord w s = .next t := by
  cases hdecode : decode w with
  | ok i =>
    rw [runWord_ok hdecode]
    exact exec_answers hs i
  | error e => exact ⟨_, runWord_error hdecode s⟩

end

/-- Under R23 every list of commands runs to its end, and R23 holds there. -/
theorem run_of_encInv {s : State} (hs : EncInv s) (is : List Instr) : ∃ rs t, Run is s rs t ∧ EncInv t := by
  induction is generalizing s with
  | nil => exact ⟨[], s, .nil s, hs⟩
  | cons i is ih =>
    obtain ⟨t, hexec⟩ := exec_answers hs i
    obtain ⟨rs, v, hrun, hv⟩ := ih (takeRsp_keeps_encInv (exec_keeps_encInv hs hexec))
    obtain ⟨st, out, u, rfl, -, -⟩ := exec_eq_next hexec
    exact ⟨_, v, .cons hexec hrun, hv⟩

/-! ## Every edge answers -/

section

variable {s : State} (hreset : s.hadReset = true)
include hreset

/-- Once reset has been applied, an acceptance under R23 answers, whichever word is accepted. -/
theorem acceptWord_answers (hs : EncInv s) (w : Cmd) : ∃ t, acceptWord w s = .next t ∧ t.hadReset = true := by
  have hword : ∃ v u, acceptWord w s = runWord v u ∧ EncInv u ∧ u.hadReset = true := by
    cases hstable : s.heldStable w with
    | true => exact ⟨w, s.clearOffers, acceptWord_stable hreset hstable, hs, hreset⟩
    | false => exact ⟨s.freeWord w, s.clearOffers.countChoice, acceptWord_unstable hreset hstable, hs, hreset⟩
  obtain ⟨v, u, heq, hu, hureset⟩ := hword
  obtain ⟨t, hrun⟩ := runWord_answers hu v
  obtain ⟨hkept, -⟩ := runWord_sameHost hrun
  exact ⟨t, heq.trans hrun, hkept.trans hureset⟩

/-- Once reset has been applied, every edge under the invariant answers, and reset stays applied. -/
theorem step_answers (hs : Inv s) : ∃ t, step s = .next t ∧ t.hadReset = true := by
  cases hrst : s.sample.rst with
  | true => exact ⟨_, step_rst hrst, rfl⟩
  | false =>
    cases hhand : s.handshake with
    | inFlight n r =>
      obtain ⟨hkept, -⟩ := flightEdge_sameRegs s.sample s.dropPins
      exact ⟨_, step_inFlight hrst hhand, hkept.trans hreset⟩
    | ready =>
      cases hvalid : s.sample.cmdValid with
      | true =>
        obtain ⟨henc, -⟩ := hs hreset
        rw [step_accept hrst hhand hvalid]
        exact acceptWord_answers (s := s.dropPins) hreset henc _
      | false => exact ⟨_, step_idle hrst hhand hvalid, hreset⟩

end

/-! ## A unit run alone -/

/-- Where a command answers in another state with the handshake of the answer `a`, and that handshake is one
`respond` leaves, so is the handshake of `a` itself. -/
theorem exists_respond_of_rspOnto {a : Answer} {onto : State → State} {u : State} {st : Status}
    {out : List Byte} (h : Host.Outcome.next (u.respond st out) = Answer.bind a fun t => .next (t.rspOnto (onto t))) :
    ∃ t : State, a = .next (t.respond st out) ∧ u.respond st out = t.rspOnto (onto t) := by
  cases a with
  | next t =>
    have hleft : u.respond st out = t.rspOnto (onto t) := Host.Outcome.next.inj h
    have hflight : .inFlight 1 (packRsp st out) = t.handshake := congrArg State.handshake hleft
    exact ⟨t, by rw [State.respond, hflight], hleft⟩
  | fault e => cases h
  | refused r => cases h

/-- The responses of a run to those of its commands that `p` picks. -/
def rspsOf (p : Instr → Bool) (is : List Instr) (rs : List Rsp) : List Rsp :=
  ((is.zip rs).filter fun x => p x.1).map Prod.snd

theorem rspsOf_cons_pos {p : Instr → Bool} {i : Instr} (hi : p i = true) (is : List Instr) (r : Rsp)
    (rs : List Rsp) : rspsOf p (i :: is) (r :: rs) = r :: rspsOf p is rs := by
  simp [rspsOf, hi]

theorem rspsOf_cons_neg {p : Instr → Bool} {i : Instr} (hi : p i = false) (is : List Instr) (r : Rsp)
    (rs : List Rsp) : rspsOf p (i :: is) (r :: rs) = rspsOf p is rs := by
  simp [rspsOf, hi]

/-- The commands that `p` picks are those of a unit whose registers agree in `Same` states (R35): they answer
alike there and leave its registers in agreement, and no other command writes them. -/
structure BlockUnit (p : Instr → Bool) (Same : State → State → Prop) : Prop where
  trans {s t u : State} : Same s t → Same t u → Same s u
  frame {i : Instr} {s u : State} {st : Status} {out : List Byte} : p i = false →
    exec i s = .next (u.respond st out) → Same s (u.respond st out).takeRsp
  lockstep {i : Instr} {s s' u : State} {st : Status} {out : List Byte} : p i = true → Same s' s →
    exec i s = .next (u.respond st out) →
    ∃ u' : State, exec i s' = .next (u'.respond st out) ∧
      Same (u'.respond st out).takeRsp (u.respond st out).takeRsp

/-- The encoder is a unit. -/
theorem blockUnit_enc : BlockUnit isEnc SameEnc where
  trans := sameEnc_trans
  frame hi h := by simpa [SameEnc] using exec_sameEnc hi h
  lockstep {i s s' u st out} hi hsame h := by
    have hcomm := exec_encOnto hi s' s
    rw [State.encOnto_of_sameEnc hsame, h] at hcomm
    obtain ⟨u', hexec, hleft⟩ := exists_respond_of_rspOnto hcomm
    have henc : SameEnc u' (u.respond st out) := hleft ▸ ⟨rfl, rfl⟩
    exact ⟨u', hexec, by simpa [SameEnc] using henc⟩

/-- The decoder is a unit. -/
theorem blockUnit_dec : BlockUnit isDec SameDec where
  trans := sameDec_trans
  frame hi h := by simpa [SameDec] using exec_sameDec hi h
  lockstep {i s s' u st out} hi hsame h := by
    have hcomm := exec_decOnto hi s' s
    rw [State.decOnto_of_sameDec hsame, h] at hcomm
    obtain ⟨u', hexec, hleft⟩ := exists_respond_of_rspOnto hcomm
    have hdec : SameDec u' (u.respond st out) := hleft ▸ ⟨rfl, rfl, rfl, rfl, rfl⟩
    exact ⟨u', hexec, by simpa [SameDec] using hdec⟩

/-- The commands of a unit, run alone from a state with the same registers of that unit, give the responses the
whole run gives to them, and leave the same registers of the unit (R213). -/
theorem Run.alone {p : Instr → Bool} {Same : State → State → Prop} (hunit : BlockUnit p Same)
    {is : List Instr} {s s' t : State} {rs : List Rsp} (hrun : Run is s rs t) (hsame : Same s' s) :
    ∃ t', Run (is.filter p) s' (rspsOf p is rs) t' ∧ Same t' t := by
  induction hrun generalizing s' with
  | nil s => exact ⟨s', .nil s', hsame⟩
  | @cons i is s u t st out rs hexec hrun ih =>
    cases hi : p i with
    | true =>
      obtain ⟨u', hexec', hsame'⟩ := hunit.lockstep hi hsame hexec
      obtain ⟨t', hrun', ht'⟩ := ih hsame'
      rw [List.filter_cons_of_pos hi, rspsOf_cons_pos hi]
      exact ⟨t', .cons hexec' hrun', ht'⟩
    | false =>
      rw [List.filter_cons_of_neg (by simp [hi]), rspsOf_cons_neg hi]
      exact ih (hunit.trans hsame (hunit.frame hi hexec))

/-! ## Reset -/

/-- No response is presented while `rst = 1` (R200). -/
theorem State.rspValid_rst (s : State) : s.rspValid true = false := by
  unfold State.rspValid State.rspPresented
  cases s.handshake <;> rfl

/-- A command before the first reset is refused (R202, U4). -/
theorem acceptWord_beforeReset {s : State} (hreset : s.hadReset = false) (w : Cmd) :
    acceptWord w s = .refused .beforeFirstReset := by
  simp [acceptWord, hreset]

end Sys2Proof.Machine

namespace Sys2Proof.Proofs

open Sys2Proof.Machine

/-- Settles O53: under R23 the whole list runs, and each unit's commands run alone go in step with it. -/
theorem unitsInterleaveFreely : Obligations.UnitsInterleaveFreely := by
  unfold Obligations.UnitsInterleaveFreely
  intro s is hs
  obtain ⟨rs, t, hrun, -⟩ := run_of_encInv hs is
  obtain ⟨te, hrune, hsamee⟩ := hrun.alone blockUnit_enc (s' := s) ⟨rfl, rfl⟩
  obtain ⟨td, hrund, hsamed⟩ := hrun.alone blockUnit_dec (s' := s) ⟨rfl, rfl, rfl, rfl, rfl⟩
  refine ⟨t, te, td, hrun.runWords_eq, hrune.runWords_eq, hrund.runWords_eq, ?_, ?_, hsamee, hsamed⟩
  · rw [hrun.newRsps_eq, hrune.newRsps_eq, rspsOf]
  · rw [hrun.newRsps_eq, hrund.newRsps_eq, rspsOf]

/-- Settles O52, by induction on the edges: each answers and keeps the invariant. -/
theorem blockNeverStops : Obligations.BlockNeverStops := by
  unfold Obligations.BlockNeverStops
  intro s hreset hs k
  induction k generalizing s with
  | zero => exact ⟨s, rfl⟩
  | succ k ih =>
    obtain ⟨t, hstep, htreset⟩ := step_answers hreset hs
    rw [runEdges_succ hstep]
    exact ih t htreset (stepKeepsInvariant s t hs hstep)

/-- Settles O36: the writes run to their end, where a flush finds R23, or a decoder that is not halted. -/
theorem flushedSessionLeavesUnitFresh : Obligations.FlushedSessionLeavesUnitFresh := by
  unfold Obligations.FlushedSessionLeavesUnitFresh
  constructor
  · intro s bs hs
    obtain ⟨rs, u, hwrites, hu⟩ := run_of_encInv hs (bs.map .encWrite)
    obtain ⟨out, hflush, -⟩ := exec_encFlush_emits hu
    exact ⟨_, (hwrites.append (.cons hflush (.nil _))).runWords_eq, rfl, rfl⟩
  · intro s cs herr hcs
    obtain ⟨out, u, hwrites, hu⟩ := okRun_members herr hcs
    have hflush := OkRun.single (exec_decFlush_running hu) ((flushBytes_length u).trans (by decide))
    obtain ⟨hrun, -⟩ := (hwrites.append hflush).observed
    exact ⟨_, hrun, rfl, rfl, rfl, rfl, hu⟩

/-- Settles O44: the accepting edge runs the free choice, which is among the words presented. -/
theorem changedWordRunsOneOffered : Obligations.ChangedWordRunsOneOffered := by
  unfold Obligations.ChangedWordRunsOneOffered
  intro s hreset hhand hrst hvalid hchanged
  have hmem : s.freeWord s.sample.cmdWord ∈ s.offered ++ [s.sample.cmdWord] := State.freeWord_mem _ s
  refine ⟨s.freeWord s.sample.cmdWord, by simpa using hmem, ?_⟩
  rw [step_accept hrst hhand hvalid, acceptWord_unstable (s := s.dropPins) hreset hchanged]
  rfl

/-- Settles O42: the step writes the reset values, and the handshake is ready. -/
theorem resetEdge : Obligations.ResetEdge := by
  unfold Obligations.ResetEdge
  intro s hrst
  exact ⟨rfl, State.rspValid_rst s, _, step_rst hrst, ⟨rfl, rfl⟩, ⟨rfl, rfl, rfl, rfl, rfl⟩, rfl,
    State.cmdReady_iff.2 ⟨rfl, rfl⟩, State.rspPresented_of_ready rfl, rfl, rfl, rfl⟩

/-- Settles O49: the edge is an acceptance, or an edge with reset, which writes every free value. -/
theorem powerUpNeedsReset : Obligations.PowerUpNeedsReset := by
  unfold Obligations.PowerUpNeedsReset
  refine ⟨fun s hreset hhand hrst hvalid => ?_, fun p rest hrst => step_rst hrst⟩
  rw [step_accept hrst hhand hvalid]
  exact acceptWord_beforeReset (s := s.dropPins) hreset _

end Sys2Proof.Proofs
end
